-- ==== Sys2Proof/Word.lean ====
section
/-! DEFINITION. The widths of the machine: bytes, 16-bit words, and the 2- and 3-bit fields of an
opcode byte (00_scope.md R5, 30_encoding.md R62). -/

namespace Sys2Proof

/-- A byte, 8 bits, unsigned (R5). -/
abbrev Byte := BitVec 8

/-- A word, 16 bits, unsigned (R5). Addresses are words (R4). -/
abbrev Word := BitVec 16

/-- The value of a 2-bit field of an opcode byte, written by its bits (R62). -/
inductive Field2
  | f00 | f01 | f10 | f11
  deriving DecidableEq, Repr

/-- The value of a 3-bit field of an opcode byte, written by its bits (R62). -/
inductive Field3
  | f000 | f001 | f010 | f011 | f100 | f101 | f110 | f111
  deriving DecidableEq, Repr

end Sys2Proof
end

