-- ==== Sys2Proof/Machine/Bits.lean ====
section
/-! DEFINITION. Byte order and the bit fields of an opcode byte (00_scope.md R5, 30_encoding.md R62,
R66). -/

namespace Sys2Proof

/-- `hi ++ lo`, the word whose high byte is `hi` (R5). -/
def wordOf (hi lo : Byte) : Word := hi ++ lo

/-- Bits 15 to 8 of a word. -/
def hiByte (w : Word) : Byte := w.extractLsb' 8 8

/-- Bits 7 to 0 of a word. -/
def loByte (w : Word) : Byte := w.extractLsb' 0 8

/-- The 2-bit field with bits `b1 b0`. -/
def field2 : Bool → Bool → Field2
  | false, false => .f00
  | false, true => .f01
  | true, false => .f10
  | true, true => .f11

/-- The 3-bit field with bits `b2 b1 b0`. -/
def field3 : Bool → Bool → Bool → Field3
  | false, false, false => .f000
  | false, false, true => .f001
  | false, true, false => .f010
  | false, true, true => .f011
  | true, false, false => .f100
  | true, false, true => .f101
  | true, true, false => .f110
  | true, true, true => .f111

/-- The two bits of a field. -/
def bits2 : Field2 → BitVec 2
  | .f00 => 0b00#2
  | .f01 => 0b01#2
  | .f10 => 0b10#2
  | .f11 => 0b11#2

/-- The three bits of a field. -/
def bits3 : Field3 → BitVec 3
  | .f000 => 0b000#3
  | .f001 => 0b001#3
  | .f010 => 0b010#3
  | .f011 => 0b011#3
  | .f100 => 0b100#3
  | .f101 => 0b101#3
  | .f110 => 0b110#3
  | .f111 => 0b111#3

/-- `qq`, opcode bits 7 to 6: the quadrant (R62). -/
def qqField (op : Byte) : Field2 := field2 (op.getLsbD 7) (op.getLsbD 6)

/-- `ddd`, opcode bits 5 to 3 (R62). -/
def dddField (op : Byte) : Field3 := field3 (op.getLsbD 5) (op.getLsbD 4) (op.getLsbD 3)

/-- `sss`, opcode bits 2 to 0 (R62). -/
def sssField (op : Byte) : Field3 := field3 (op.getLsbD 2) (op.getLsbD 1) (op.getLsbD 0)

/-- The opcode byte `qq ddd sss` (R62). -/
def opcodeOf (qq : Field2) (ddd sss : Field3) : Byte := bits2 qq ++ bits3 ddd ++ bits3 sss

/-- The pair form of the `ddd` bits: `rp` = bits 5 to 4, and bit 3 (R62). -/
def pairForm : Field3 → Field2 × Bool
  | .f000 => (.f00, false)
  | .f001 => (.f00, true)
  | .f010 => (.f01, false)
  | .f011 => (.f01, true)
  | .f100 => (.f10, false)
  | .f101 => (.f10, true)
  | .f110 => (.f11, false)
  | .f111 => (.f11, true)

/-- The `ddd` bits of a pair form: `rp` then bit 3 (R62). -/
def pairField : Field2 → Bool → Field3
  | .f00, false => .f000
  | .f00, true => .f001
  | .f01, false => .f010
  | .f01, true => .f011
  | .f10, false => .f100
  | .f10, true => .f101
  | .f11, false => .f110
  | .f11, true => .f111

end Sys2Proof
end

