-- ==== Sys2Proof/Machine/State.lean ====
section
/-! DEFINITION. The state of the core, as plain data, holding everything 10_state.md gives it
(section 1, R10 to R24), the reasons a step could stop, and the state after reset. -/

namespace Sys2Proof.Machine

/-- The five flags, separate booleans of the register bank (R18). -/
structure Flags where
  /-- Sign, PSW bit 7. -/
  s : Bool
  /-- Zero, PSW bit 6. -/
  z : Bool
  /-- Auxiliary carry, PSW bit 4. -/
  ac : Bool
  /-- Parity, PSW bit 2: true for an even number of 1 bits. -/
  p : Bool
  /-- Carry, PSW bit 0. -/
  cy : Bool
  deriving DecidableEq, Repr

/-- Memory: the bytes that are not 0x00, by address, strictly rising. The form is
`Memory.wf` in Ops.lean; an address that is not listed reads as `unlistedByte` there (R42). -/
abbrev Memory := List Host.Cell

/-- The state of the core: the register bank and the memory. There is no other (R22, R24). -/
structure State where
  /-- General register B, high half of BC (R10). -/
  b : Byte
  /-- General register C, low half of BC (R10). -/
  c : Byte
  /-- General register D, high half of DE (R10). -/
  d : Byte
  /-- General register E, low half of DE (R10). -/
  e : Byte
  /-- General register H, high half of HL (R10). -/
  h : Byte
  /-- General register L, low half of HL (R10). -/
  l : Byte
  /-- The accumulator, high byte of PSW (R10, R15). -/
  a : Byte
  /-- The program counter (R16). -/
  pc : Word
  /-- The stack pointer (R17). -/
  sp : Word
  /-- The flags (R18). -/
  flags : Flags
  /-- HALTED, the state of the control FSM (R21, R95). -/
  halted : Bool
  /-- The 65536 bytes of memory (R23, R40). -/
  mem : Memory
  deriving DecidableEq, Repr

/-- The reasons a step stops with a fault: none. "The core raises no synchronous exception. No
instruction, under any operand value or machine state, faults, traps or aborts" (R260). A type
without constructors is safe: it promises no stop, and the spec gives none (log 20). -/
inductive Fault
  deriving DecidableEq, Repr

/-- The reasons an instruction is refused. -/
inductive Refusal
  /-- Raised by an arm of `exec` for an instruction that has no meaning yet; no arm raises it.
  Safe: the machine would stop where the hardware goes on. -/
  | notModelled (mnemonic : String)
  deriving DecidableEq, Repr

/-- What a step or a meaning answers. -/
abbrev Result := Host.Outcome State Fault Refusal

/-- The machine right after power-on and reset, before a program is loaded: PC = 0x0000, SP = 0xFFFF,
every register and flag 0, not halted (R28, R280); memory is what power-on left, all 0x00, since
reset does not touch it (R42, R281). -/
def State.reset : State where
  b := 0x00
  c := 0x00
  d := 0x00
  e := 0x00
  h := 0x00
  l := 0x00
  a := 0x00
  pc := 0x0000
  sp := 0xFFFF
  flags := { s := false, z := false, ac := false, p := false, cy := false }
  halted := false
  mem := []

end Sys2Proof.Machine
end

