-- ==== Sys2Proof/Syntax.lean ====
section
/-! DEFINITION. The instructions: one constructor of `Instr` per row of spec/opcode_table.json, with
the operands 30_encoding.md gives it. The spec calls such a value an Operation (R75). -/

namespace Sys2Proof

/-- The eight register indices (R63). `m` is no storage: it names the memory byte at H:L (R11). -/
inductive Reg
  | b | c | d | e | h | l | m | a
  deriving DecidableEq, Repr

/-- The register pairs of LXI, INX, DCX and DAD (R64): code 3 is SP. -/
inductive Pair
  | bc | de | hl | sp
  deriving DecidableEq, Repr

/-- The register pairs of LDAX and STAX, selected by opcode bit 4 (R64). -/
inductive IndirectPair
  | bc | de
  deriving DecidableEq, Repr

/-- The register pairs of PUSH and POP (R64); code 3, PSW, is a row of its own. -/
inductive StackPair
  | bc | de | hl
  deriving DecidableEq, Repr

/-- The eight conditions (R65). -/
inductive Cond
  | nz | z | nc | c | po | pe | p | m
  deriving DecidableEq, Repr

/-- The instruction set, one constructor per row of spec/opcode_table.json, in the table's order. -/
inductive Instr
  | nop
  /-- The seven alias bytes `00 xxx 000` of NOP; `xxx` is the ignored field. -/
  | nopAlias (xxx : Field3)
  | lxi (rp : Pair) (d16 : Word)
  | stax (p : IndirectPair)
  | ldax (p : IndirectPair)
  | shld (addr : Word)
  | lhld (addr : Word)
  | sta (addr : Word)
  | lda (addr : Word)
  | inx (rp : Pair)
  | dcx (rp : Pair)
  | dad (rp : Pair)
  | inr (r : Reg)
  | dcr (r : Reg)
  | mvi (r : Reg) (d8 : Byte)
  | rlc
  | rrc
  | ral
  | rar
  | daa
  | cma
  | stc
  | cmc
  /-- `MOV d,s`: destination first. -/
  | mov (dst src : Reg)
  | hlt
  | add (r : Reg)
  | adc (r : Reg)
  | sub (r : Reg)
  | sbb (r : Reg)
  | ana (r : Reg)
  | xra (r : Reg)
  | ora (r : Reg)
  | cmp (r : Reg)
  | rnz
  | rz
  | rnc
  | rc
  | rpo
  | rpe
  | rp
  | rm
  | jnz (addr : Word)
  | jz (addr : Word)
  | jnc (addr : Word)
  | jc (addr : Word)
  | jpo (addr : Word)
  | jpe (addr : Word)
  | jp (addr : Word)
  | jm (addr : Word)
  | cnz (addr : Word)
  | cz (addr : Word)
  | cnc (addr : Word)
  | cc (addr : Word)
  | cpo (addr : Word)
  | cpe (addr : Word)
  | cp (addr : Word)
  | cm (addr : Word)
  | pop (rp : StackPair)
  | popPsw
  | push (rp : StackPair)
  | pushPsw
  | jmp (addr : Word)
  | jmpAlias (addr : Word)
  | call (addr : Word)
  /-- CALL by the byte `CALL_ALIAS` (R246). -/
  | callAlias (addr : Word)
  | ret
  | retAlias
  | adi (d8 : Byte)
  | aci (d8 : Byte)
  | sui (d8 : Byte)
  | sbi (d8 : Byte)
  | ani (d8 : Byte)
  | xri (d8 : Byte)
  | ori (d8 : Byte)
  | cpi (d8 : Byte)
  | xthl
  | pchl
  | xchg
  | sphl
  /-- The unimplemented bytes `11 nnn 111`; `nnn` is the ignored field. -/
  | unimplRst (nnn : Field3)
  | unimplOut
  | unimplIn
  | unimplDi
  | unimplEi
  /-- The unimplemented CALL-family row of byte 0xED for the default `CALL_ALIAS`; when 0xED is
  `CALL_ALIAS`, the row of byte 0xDD instead (the table's note on the CALL alias row). -/
  | unimpl0xED
  /-- The unimplemented CALL-family row of byte 0xFD for the default `CALL_ALIAS`; when 0xFD is
  `CALL_ALIAS`, the row of byte 0xDD instead. -/
  | unimpl0xFD
  deriving DecidableEq, Repr

end Sys2Proof
end

