-- ==== Sys2Proof/Machine/Flags.lean ====
section
/-! DEFINITION. The ALU: results and flags, pure functions of their arguments (42_arithmetic.md
section 1, 43_logical_rotate.md R160), the conditions (R190) and the flag byte of PSW (R19, R20). -/

namespace Sys2Proof.Machine

/-- The number of 1 bits of a byte. -/
def oneBits (v : Byte) : Nat :=
  (v.getLsbD 0).toNat + (v.getLsbD 1).toNat + (v.getLsbD 2).toNat + (v.getLsbD 3).toNat
    + (v.getLsbD 4).toNat + (v.getLsbD 5).toNat + (v.getLsbD 6).toNat + (v.getLsbD 7).toNat

/-- `Parity(v)`: 1 for an even number of 1 bits (R131). -/
def parity (v : Byte) : Bool := oneBits v % 2 == 0

/-- The flags after a result `v` with carry `cy` and auxiliary carry `ac`: Z, S and P are `SZP(v)`
(R130). -/
def flagsOf (v : Byte) (cy ac : Bool) : Flags :=
  { s := v.getLsbD 7, z := v == 0, ac := ac, p := parity v, cy := cy }

/-- What the adder and the subtracter return: the 8-bit result, carry and auxiliary carry. -/
structure AluOut where
  res : Byte
  cy : Bool
  ac : Bool
  deriving DecidableEq, Repr

/-- The flags an ALU result writes. -/
def AluOut.flags (o : AluOut) : Flags := flagsOf o.res o.cy o.ac

/-- `Add8(a, b, cin)`: the exact sum, its low 8 bits, the carry out of bit 7 and the carry out of
bit 3 (R132). -/
def add8 (a b : Byte) (cin : Bool) : AluOut :=
  let raw := a.toNat + b.toNat + cin.toNat
  { res := BitVec.ofNat 8 raw
    cy := decide (raw > 255)
    ac := decide (a.toNat % 16 + b.toNat % 16 + cin.toNat > 15) }

/-- `Sub8(a, b, bin)`: the exact difference, its residue modulo 256, the borrow, and the borrow of
the low nibble (R133). AC is the borrow itself, not its complement (C10, D23, log 8). -/
def sub8 (a b : Byte) (bin : Bool) : AluOut :=
  let raw : Int := (a.toNat : Int) - (b.toNat : Int) - (bin.toNat : Int)
  { res := BitVec.ofInt 8 raw
    cy := decide (raw < 0)
    ac := decide (((a.toNat % 16 : Nat) : Int) - ((b.toNat % 16 : Nat) : Int)
      - (bin.toNat : Int) < 0) }

/-- A bitwise operation: the result with CY and AC cleared (R160, D6, log 7). -/
def logic8 (res : Byte) : AluOut := { res := res, cy := false, ac := false }

/-- DAA: the corrected accumulator, CY and AC, from A, CY and AC (R148, D10, log 9). -/
def daa8 (a : Byte) (cy ac : Bool) : AluOut :=
  let lo := a.toNat % 16
  let hi := a.toNat / 16
  let low := ac || decide (lo > 9)
  let high := cy || decide (hi > 9) || (decide (hi = 9) && decide (lo > 9))
  let corr : Byte := (if low then 0x06 else 0x00) + (if high then 0x60 else 0x00)
  let out := add8 a corr false
  { res := out.res, cy := cy || high, ac := out.ac }

/-- `Cond(ccc)` on the flags (R190). -/
def condHolds (f : Flags) : Cond → Bool
  | .nz => !f.z
  | .z => f.z
  | .nc => !f.cy
  | .c => f.cy
  | .po => !f.p
  | .pe => f.p
  | .p => !f.s
  | .m => f.s

/-- The flag byte F of PSW: `S ++ Z ++ 0 ++ AC ++ 0 ++ P ++ 0 ++ CY` (R19). -/
def packFlags (f : Flags) : Byte :=
  BitVec.ofBool f.s ++ BitVec.ofBool f.z ++ 0#1 ++ BitVec.ofBool f.ac ++ 0#1 ++ BitVec.ofBool f.p
    ++ 0#1 ++ BitVec.ofBool f.cy

/-- The flags of a flag byte: bits 7, 6, 4, 2 and 0; bits 5, 3 and 1 are discarded (R20). -/
def unpackFlags (v : Byte) : Flags :=
  { s := v.getLsbD 7, z := v.getLsbD 6, ac := v.getLsbD 4, p := v.getLsbD 2, cy := v.getLsbD 0 }

/-- PSW read: `A ++ F` (R19). -/
def readPsw (s : State) : Word := wordOf s.a (packFlags s.flags)

/-- PSW written: A from the high byte, the flags from the low byte (R20). -/
def writePsw (s : State) (v : Word) : State :=
  { s with a := hiByte v, flags := unpackFlags (loByte v) }

end Sys2Proof.Machine
end

