-- ==== Sys2Proof/Machine/Ops.lean ====
section
/-! DEFINITION. The named operations over memory and the register bank that the meanings share:
memory reads and writes (20_memory.md), the stack primitives (R230, R231), the fetch unit (R90,
R91) and reset (R280). There is no exception entry and no return from one: the core has neither
(60_exceptions.md R260, R264, R265). -/

namespace Sys2Proof.Machine

/-! ## Memory -/

/-- What an address reads as that has not been written since power-on: 0x00 (R42). -/
def unlistedByte : Byte := 0x00

/-- The byte a memory holds at an address. -/
def memGet : Memory → Nat → Byte
  | [], _ => unlistedByte
  | cell :: rest, x => if cell.1 = x then cell.2 else memGet rest x

/-- A memory without any entry for the address `x`. -/
def memDrop : Memory → Nat → Memory
  | [], _ => []
  | cell :: rest, x => if cell.1 = x then memDrop rest x else cell :: memDrop rest x

/-- Insert an entry before the first entry with a greater address. -/
def memInsert : Memory → Nat → Byte → Memory
  | [], x, v => [(x, v)]
  | cell :: rest, x, v => if x < cell.1 then (x, v) :: cell :: rest else cell :: memInsert rest x v

/-- Replace the byte at the address `x` by `v`, keeping the canonical form (R41). -/
def memPut (m : Memory) (x : Nat) (v : Byte) : Memory :=
  if v = unlistedByte then memDrop m x else memInsert (memDrop m x) x v

/-- Every address of the memory is at least `low`, they rise strictly and stay below 65536 (R40),
and no entry holds what an unlisted address reads as. -/
def memRising : Nat → Memory → Bool
  | _, [] => true
  | low, cell :: rest =>
    decide (low ≤ cell.1) && decide (cell.1 < 65536) && !(cell.2 == unlistedByte)
      && memRising (cell.1 + 1) rest

/-- The canonical form of a memory: equal memories are equal lists. -/
def Memory.wf (m : Memory) : Bool := memRising 0 m

/-- `MemRead(addr, 1)` (R41). -/
def readMem (s : State) (addr : Word) : Byte := memGet s.mem addr.toNat

/-- `MemWrite(addr, 1, v)` (R41). -/
def writeMem (s : State) (addr : Word) (v : Byte) : State :=
  { s with mem := memPut s.mem addr.toNat v }

/-- `MemRead(addr, 2)`: little-endian, `addr + 1` modulo 65536 (R43, R47). -/
def readMem2 (s : State) (addr : Word) : Word :=
  wordOf (readMem s (addr + 1)) (readMem s addr)

/-- `MemWrite(addr, 2, v)`: the low byte at `addr`, then the high byte at `addr + 1` modulo 65536
(R43, R47, R117). -/
def writeMem2 (s : State) (addr : Word) (v : Word) : State :=
  writeMem (writeMem s addr (loByte v)) (addr + 1) (hiByte v)

/-- Store consecutive bytes from an address on, addresses modulo 65536 (R283's program load). -/
def writeBytes (s : State) (addr : Word) : List Byte → State
  | [] => s
  | v :: rest => writeBytes (writeMem s addr v) (addr + 1) rest

/-! ## The stack primitives -/

/-- `Push16(v)`: the high byte at SP - 1, then the low byte at SP - 2, then SP is SP - 2 (R230). -/
def push16 (s : State) (v : Word) : State :=
  { writeMem (writeMem s (s.sp - 1) (hiByte v)) (s.sp - 2) (loByte v) with sp := s.sp - 2 }

/-- The word `Pop16()` returns: the low byte from SP, the high byte from SP + 1 (R231). -/
def stackTop (s : State) : Word := wordOf (readMem s (s.sp + 1)) (readMem s s.sp)

/-- `Pop16()`: the word at SP; SP becomes SP + 2 and memory is not changed (R231). -/
def pop16 (s : State) : Word × State := (stackTop s, { s with sp := s.sp + 2 })

/-! ## The fetch unit -/

/-- `FetchByte()`: the byte at PC; PC becomes PC + 1 modulo 65536 (R90). -/
def fetchByte (s : State) : Byte × State := (readMem s s.pc, { s with pc := s.pc + 1 })

/-- `FetchWord()`: two byte fetches, the low byte first (R91). -/
def fetchWord (s : State) : Word × State :=
  let (lo, s1) := fetchByte s
  let (hi, s2) := fetchByte s1
  (wordOf hi lo, s2)

/-! ## Reset -/

/-- The host's `reset`: every register, flag and HALTED take their reset values whatever they were;
memory is left alone (R28, R280, R281). -/
def resetCore (s : State) : State := { State.reset with mem := s.mem }

end Sys2Proof.Machine
end

