-- ==== Sys2Proof/Machine/Operands.lean ====
section
/-! DEFINITION. The operand forms: registers by index with M redirected to memory (R11, R110),
register pairs (R13, R14, R64), and the pairs of LDAX/STAX and of PUSH/POP. -/

namespace Sys2Proof.Machine

/-- HL as an address: `H ++ L` (R11, R13). -/
def hlWord (s : State) : Word := wordOf s.h s.l

/-- `r[i]` read (R110): index 6 is the byte at `H ++ L`. -/
def readReg (s : State) : Reg → Byte
  | .b => s.b
  | .c => s.c
  | .d => s.d
  | .e => s.e
  | .h => s.h
  | .l => s.l
  | .m => readMem s (hlWord s)
  | .a => s.a

/-- `r[i] <- v` (R110): index 6 is a store to the byte at `H ++ L`. -/
def writeReg (s : State) (r : Reg) (v : Byte) : State :=
  match r with
  | .b => { s with b := v }
  | .c => { s with c := v }
  | .d => { s with d := v }
  | .e => { s with e := v }
  | .h => { s with h := v }
  | .l => { s with l := v }
  | .m => writeMem s (hlWord s) v
  | .a => { s with a := v }

/-- `rp[k]` read (R13, R14): the first-named register is the high byte. -/
def readPair (s : State) : Pair → Word
  | .bc => wordOf s.b s.c
  | .de => wordOf s.d s.e
  | .hl => wordOf s.h s.l
  | .sp => s.sp

/-- `rp[k] <- v` (R13, R14): the high byte to the first-named register. -/
def writePair (s : State) (rp : Pair) (v : Word) : State :=
  match rp with
  | .bc => { s with b := hiByte v, c := loByte v }
  | .de => { s with d := hiByte v, e := loByte v }
  | .hl => { s with h := hiByte v, l := loByte v }
  | .sp => { s with sp := v }

/-- The pair an LDAX or STAX field names (R64, R118, R119). -/
def indirectPair : IndirectPair → Pair
  | .bc => .bc
  | .de => .de

/-- The pair a PUSH or POP field names (R232, R234). -/
def stackPair : StackPair → Pair
  | .bc => .bc
  | .de => .de
  | .hl => .hl

end Sys2Proof.Machine
end

