-- ==== Sys2Proof/Machine/Branch.lean ====
section
/-! DEFINITION. The meanings of the control transfer instructions (44_branch.md). PC already holds the
address of the next instruction when one of them runs (R97), so "falls through" leaves the state as
it is. None writes a flag. -/

namespace Sys2Proof.Machine

/-- `PC <- addr` (R191). -/
def jumpTo (s : State) (addr : Word) : State := { s with pc := addr }

/-- `Push16(PC); PC <- addr` (R200). -/
def callTo (s : State) (addr : Word) : State := jumpTo (push16 s s.pc) addr

/-- `PC <- Pop16()` (R209). -/
def returnFrom (s : State) : State := jumpTo (pop16 s).2 (pop16 s).1

/-- A conditional jump: taken, or falling through (R192). -/
def jumpIf (cond : Cond) (addr : Word) (s : State) : State :=
  if condHolds s.flags cond then jumpTo s addr else s

/-- A conditional call: taken, or falling through with SP and memory unchanged (R201, D13). -/
def callIf (cond : Cond) (addr : Word) (s : State) : State :=
  if condHolds s.flags cond then callTo s addr else s

/-- A conditional return: taken, or falling through with SP unchanged (R210, D13). -/
def returnIf (cond : Cond) (s : State) : State :=
  if condHolds s.flags cond then returnFrom s else s

/-- `JMP addr` (R191). -/
def execJmp (addr : Word) (s : State) : Result := .next (jumpTo s addr)

/-- The alias byte 0xCB of JMP, identical in every respect (R71, R191). -/
def execJmpAlias (addr : Word) (s : State) : Result := .next (jumpTo s addr)

/-- `JNZ addr` (R192). -/
def execJnz (addr : Word) (s : State) : Result := .next (jumpIf .nz addr s)

/-- `JZ addr` (R193). -/
def execJz (addr : Word) (s : State) : Result := .next (jumpIf .z addr s)

/-- `JNC addr` (R194). -/
def execJnc (addr : Word) (s : State) : Result := .next (jumpIf .nc addr s)

/-- `JC addr` (R195). -/
def execJc (addr : Word) (s : State) : Result := .next (jumpIf .c addr s)

/-- `JPO addr` (R196). -/
def execJpo (addr : Word) (s : State) : Result := .next (jumpIf .po addr s)

/-- `JPE addr` (R197). -/
def execJpe (addr : Word) (s : State) : Result := .next (jumpIf .pe addr s)

/-- `JP addr` (R198). -/
def execJp (addr : Word) (s : State) : Result := .next (jumpIf .p addr s)

/-- `JM addr` (R199). -/
def execJm (addr : Word) (s : State) : Result := .next (jumpIf .m addr s)

/-- `CALL addr` (R200). -/
def execCall (addr : Word) (s : State) : Result := .next (callTo s addr)

/-- The alias byte `CALL_ALIAS` of CALL, identical in every respect (R71, R200, R246). -/
def execCallAlias (addr : Word) (s : State) : Result := .next (callTo s addr)

/-- `CNZ addr` (R201). -/
def execCnz (addr : Word) (s : State) : Result := .next (callIf .nz addr s)

/-- `CZ addr` (R202). -/
def execCz (addr : Word) (s : State) : Result := .next (callIf .z addr s)

/-- `CNC addr` (R203). -/
def execCnc (addr : Word) (s : State) : Result := .next (callIf .nc addr s)

/-- `CC addr` (R204). -/
def execCc (addr : Word) (s : State) : Result := .next (callIf .c addr s)

/-- `CPO addr` (R205). -/
def execCpo (addr : Word) (s : State) : Result := .next (callIf .po addr s)

/-- `CPE addr` (R206). -/
def execCpe (addr : Word) (s : State) : Result := .next (callIf .pe addr s)

/-- `CP addr` (R207). -/
def execCp (addr : Word) (s : State) : Result := .next (callIf .p addr s)

/-- `CM addr` (R208). -/
def execCm (addr : Word) (s : State) : Result := .next (callIf .m addr s)

/-- `RET` (R209). -/
def execRet (s : State) : Result := .next (returnFrom s)

/-- The alias byte 0xD9 of RET, identical in every respect (R71, R209). -/
def execRetAlias (s : State) : Result := .next (returnFrom s)

/-- `RNZ` (R210). -/
def execRnz (s : State) : Result := .next (returnIf .nz s)

/-- `RZ` (R211). -/
def execRz (s : State) : Result := .next (returnIf .z s)

/-- `RNC` (R212). -/
def execRnc (s : State) : Result := .next (returnIf .nc s)

/-- `RC` (R213). -/
def execRc (s : State) : Result := .next (returnIf .c s)

/-- `RPO` (R214). -/
def execRpo (s : State) : Result := .next (returnIf .po s)

/-- `RPE` (R215). -/
def execRpe (s : State) : Result := .next (returnIf .pe s)

/-- `RP` (R216). -/
def execRp (s : State) : Result := .next (returnIf .p s)

/-- `RM` (R217). -/
def execRm (s : State) : Result := .next (returnIf .m s)

/-- `PCHL`: `PC <- H ++ L` (R218). -/
def execPchl (s : State) : Result := .next (jumpTo s (hlWord s))

end Sys2Proof.Machine
end

