-- ==== Sys2Proof/Machine/DataTransfer.lean ====
section
/-! DEFINITION. The meanings of the data transfer instructions (41_data_transfer.md). Each is written
over the state after the whole instruction was fetched (R97); none writes a flag. -/

namespace Sys2Proof.Machine

/-- `MOV d,s`: `r[d] <- r[s]` (R111). -/
def execMov (dst src : Reg) (s : State) : Result := .next (writeReg s dst (readReg s src))

/-- `MVI d,d8`: `r[d] <- d8` (R112). -/
def execMvi (dst : Reg) (d8 : Byte) (s : State) : Result := .next (writeReg s dst d8)

/-- `LXI rp,d16`: `rp[rp] <- d16` (R113). -/
def execLxi (rp : Pair) (d16 : Word) (s : State) : Result := .next (writePair s rp d16)

/-- `LDA addr`: `A <- MemRead(addr, 1)` (R114). -/
def execLda (addr : Word) (s : State) : Result := .next { s with a := readMem s addr }

/-- `STA addr`: `MemWrite(addr, 1, A)` (R115). -/
def execSta (addr : Word) (s : State) : Result := .next (writeMem s addr s.a)

/-- `LHLD addr`: L from `addr`, H from `addr + 1` (R116). -/
def execLhld (addr : Word) (s : State) : Result := .next (writePair s .hl (readMem2 s addr))

/-- `SHLD addr`: L to `addr`, then H to `addr + 1` (R117). -/
def execShld (addr : Word) (s : State) : Result := .next (writeMem2 s addr (hlWord s))

/-- `LDAX rp`: A from the byte the pair addresses (R118). -/
def execLdax (p : IndirectPair) (s : State) : Result :=
  .next { s with a := readMem s (readPair s (indirectPair p)) }

/-- `STAX rp`: A to the byte the pair addresses (R119). -/
def execStax (p : IndirectPair) (s : State) : Result :=
  .next (writeMem s (readPair s (indirectPair p)) s.a)

/-- `XCHG`: DE and HL are swapped (R120). -/
def execXchg (s : State) : Result := .next { s with d := s.h, e := s.l, h := s.d, l := s.e }

end Sys2Proof.Machine
end

