-- ==== Sys2Proof/Machine/Arithmetic.lean ====
section
/-! DEFINITION. The meanings of the arithmetic instructions (42_arithmetic.md), over the ALU
functions of Flags.lean. -/

namespace Sys2Proof.Machine

/-- Write an ALU result to A and its five flags. -/
def toAcc (s : State) (o : AluOut) : State := { s with a := o.res, flags := o.flags }

/-- Write an ALU result to `r[r]`, and Z, S, P and AC; CY is left alone (R143, R144, D5, log 10).
The register or the byte at HL is written before the flags, neither of which the other reads. -/
def toRegKeepCarry (s : State) (r : Reg) (o : AluOut) : State :=
  { writeReg s r o.res with flags := { o.flags with cy := s.flags.cy } }

/-- `ADD s` (R135). -/
def execAdd (r : Reg) (s : State) : Result := .next (toAcc s (add8 s.a (readReg s r) false))

/-- `ADC s` (R136). -/
def execAdc (r : Reg) (s : State) : Result := .next (toAcc s (add8 s.a (readReg s r) s.flags.cy))

/-- `SUB s` (R137). -/
def execSub (r : Reg) (s : State) : Result := .next (toAcc s (sub8 s.a (readReg s r) false))

/-- `SBB s` (R138). -/
def execSbb (r : Reg) (s : State) : Result := .next (toAcc s (sub8 s.a (readReg s r) s.flags.cy))

/-- `ADI d8` (R139). -/
def execAdi (d8 : Byte) (s : State) : Result := .next (toAcc s (add8 s.a d8 false))

/-- `ACI d8` (R140). -/
def execAci (d8 : Byte) (s : State) : Result := .next (toAcc s (add8 s.a d8 s.flags.cy))

/-- `SUI d8` (R141). -/
def execSui (d8 : Byte) (s : State) : Result := .next (toAcc s (sub8 s.a d8 false))

/-- `SBI d8` (R142). -/
def execSbi (d8 : Byte) (s : State) : Result := .next (toAcc s (sub8 s.a d8 s.flags.cy))

/-- `INR d` (R143). -/
def execInr (r : Reg) (s : State) : Result :=
  .next (toRegKeepCarry s r (add8 (readReg s r) 0x01 false))

/-- `DCR d` (R144). -/
def execDcr (r : Reg) (s : State) : Result :=
  .next (toRegKeepCarry s r (sub8 (readReg s r) 0x01 false))

/-- `INX rp`: no flag is written (R145). -/
def execInx (rp : Pair) (s : State) : Result := .next (writePair s rp (readPair s rp + 1))

/-- `DCX rp`: no flag is written (R146). -/
def execDcx (rp : Pair) (s : State) : Result := .next (writePair s rp (readPair s rp - 1))

/-- `DAD rp`: HL plus the pair to HL, the carry out of bit 15 to CY, no other flag (R147). -/
def execDad (rp : Pair) (s : State) : Result :=
  let raw := (hlWord s).toNat + (readPair s rp).toNat
  .next { writePair s .hl (BitVec.ofNat 16 raw) with
    flags := { s.flags with cy := decide (raw > 65535) } }

/-- `DAA` (R148). -/
def execDaa (s : State) : Result := .next (toAcc s (daa8 s.a s.flags.cy s.flags.ac))

end Sys2Proof.Machine
end

