-- ==== Sys2Proof/Machine/Logic.lean ====
section
/-! DEFINITION. The meanings of the logic, compare, rotate and carry instructions
(43_logical_rotate.md). -/

namespace Sys2Proof.Machine

/-- Write the five flags of an ALU result and discard the result itself (R164). -/
def toFlags (s : State) (o : AluOut) : State := { s with flags := o.flags }

/-- Write a rotated accumulator and the bit shifted out; Z, S, P and AC are left alone (43, section
2). -/
def rotated (s : State) (v : Byte) (out : Bool) : State :=
  { s with a := v, flags := { s.flags with cy := out } }

/-- `ANA s` (R161). -/
def execAna (r : Reg) (s : State) : Result := .next (toAcc s (logic8 (s.a &&& readReg s r)))

/-- `XRA s` (R162). -/
def execXra (r : Reg) (s : State) : Result := .next (toAcc s (logic8 (s.a ^^^ readReg s r)))

/-- `ORA s` (R163). -/
def execOra (r : Reg) (s : State) : Result := .next (toAcc s (logic8 (s.a ||| readReg s r)))

/-- `CMP s`: the flags of SUB; A is not written (R164). -/
def execCmp (r : Reg) (s : State) : Result := .next (toFlags s (sub8 s.a (readReg s r) false))

/-- `ANI d8` (R165). -/
def execAni (d8 : Byte) (s : State) : Result := .next (toAcc s (logic8 (s.a &&& d8)))

/-- `XRI d8` (R166). -/
def execXri (d8 : Byte) (s : State) : Result := .next (toAcc s (logic8 (s.a ^^^ d8)))

/-- `ORI d8` (R167). -/
def execOri (d8 : Byte) (s : State) : Result := .next (toAcc s (logic8 (s.a ||| d8)))

/-- `CPI d8`: the flags of SUI; A is not written (R168). -/
def execCpi (d8 : Byte) (s : State) : Result := .next (toFlags s (sub8 s.a d8 false))

/-- `RLC`: `b <- A[7]; A <- A[6:0] ++ b; CY <- b` (R169). -/
def execRlc (s : State) : Result :=
  let b := s.a.getLsbD 7
  .next (rotated s (s.a.extractLsb' 0 7 ++ BitVec.ofBool b) b)

/-- `RRC`: `b <- A[0]; A <- b ++ A[7:1]; CY <- b` (R170). -/
def execRrc (s : State) : Result :=
  let b := s.a.getLsbD 0
  .next (rotated s (BitVec.ofBool b ++ s.a.extractLsb' 1 7) b)

/-- `RAL`: `b <- A[7]; A <- A[6:0] ++ CY; CY <- b`, with the old CY (R171). -/
def execRal (s : State) : Result :=
  .next (rotated s (s.a.extractLsb' 0 7 ++ BitVec.ofBool s.flags.cy) (s.a.getLsbD 7))

/-- `RAR`: `b <- A[0]; A <- CY ++ A[7:1]; CY <- b`, with the old CY (R172). -/
def execRar (s : State) : Result :=
  .next (rotated s (BitVec.ofBool s.flags.cy ++ s.a.extractLsb' 1 7) (s.a.getLsbD 0))

/-- `CMA`: `A <- ~A`, no flag (R173). -/
def execCma (s : State) : Result := .next { s with a := ~~~s.a }

/-- `CMC`: `CY <- 1 - CY`, no other flag (R174). -/
def execCmc (s : State) : Result := .next { s with flags := { s.flags with cy := !s.flags.cy } }

/-- `STC`: `CY <- 1`, no other flag (R175). -/
def execStc (s : State) : Result := .next { s with flags := { s.flags with cy := true } }

end Sys2Proof.Machine
end

