-- ==== Sys2Proof/Machine/StackControl.lean ====
section
/-! DEFINITION. The meanings of the stack and machine control instructions and of the unimplemented
opcodes (45_stack_machine_control.md). -/

namespace Sys2Proof.Machine

/-- `PUSH rp` (R232). -/
def execPush (rp : StackPair) (s : State) : Result :=
  .next (push16 s (readPair s (stackPair rp)))

/-- `PUSH PSW`: `Push16(A ++ F)` (R233). -/
def execPushPsw (s : State) : Result := .next (push16 s (readPsw s))

/-- `POP rp` (R234). -/
def execPop (rp : StackPair) (s : State) : Result :=
  .next (writePair (pop16 s).2 (stackPair rp) (pop16 s).1)

/-- `POP PSW`: A and the five flags from the popped word (R235). -/
def execPopPsw (s : State) : Result := .next (writePsw (pop16 s).2 (pop16 s).1)

/-- `XTHL`: both bytes at SP and SP + 1 are read, then L and H are stored there, then L and H take
the bytes read; SP is unchanged (R236). -/
def execXthl (s : State) : Result :=
  let top := readMem2 s s.sp
  .next (writePair (writeMem2 s s.sp (hlWord s)) .hl top)

/-- `SPHL`: `SP <- H ++ L` (R237). -/
def execSphl (s : State) : Result := .next { s with sp := hlWord s }

/-- `NOP`: nothing (R238). -/
def execNop (s : State) : Result := .next s

/-- The seven alias bytes of NOP, identical in every respect; the field is ignored (R71, R238). -/
def execNopAlias (_xxx : Field3) (s : State) : Result := .next s

/-- `HLT`: `HALTED <- 1` (R239). -/
def execHlt (s : State) : Result := .next { s with halted := true }

/-- The unimplemented operation: the state is unchanged (R240). -/
def unimplemented (s : State) : State := s

/-- The RST n bytes: unimplemented; nothing is pushed, the field is ignored (R241). -/
def execUnimplRst (_nnn : Field3) (s : State) : Result := .next (unimplemented s)

/-- The OUT byte: unimplemented, one byte long (R243). -/
def execUnimplOut (s : State) : Result := .next (unimplemented s)

/-- The IN byte: unimplemented, one byte long (R242). -/
def execUnimplIn (s : State) : Result := .next (unimplemented s)

/-- The DI byte: unimplemented (R245). -/
def execUnimplDi (s : State) : Result := .next (unimplemented s)

/-- The EI byte: unimplemented (R244). -/
def execUnimplEi (s : State) : Result := .next (unimplemented s)

/-- A CALL-family byte that is not `CALL_ALIAS`, row 0xED: unimplemented, one byte long (R246). -/
def execUnimpl0xED (s : State) : Result := .next (unimplemented s)

/-- A CALL-family byte that is not `CALL_ALIAS`, row 0xFD: unimplemented, one byte long (R246). -/
def execUnimpl0xFD (s : State) : Result := .next (unimplemented s)

end Sys2Proof.Machine
end

