-- ==== Sys2Proof/Config.lean ====
section
/-! DEFINITION. What an implementation fixes: the one open parameter of the core, `CALL_ALIAS`
(00_scope.md R4, 45_stack_machine_control.md R246). -/

namespace Sys2Proof

/-- The values `CALL_ALIAS` may take: the byte of the CALL family that is the one alias of CALL
(30_encoding.md R71, 90_conflicts.md C3). The decoder and the step take the parameter as an
argument, so a statement can hold for every piece of hardware; `Sys2Proof.callAlias` in Decode.lean
is the spec's default. -/
inductive CallAlias
  /-- 0xDD is CALL; 0xED and 0xFD are unimplemented. The spec's default. -/
  | dd
  /-- 0xED is CALL; 0xDD and 0xFD are unimplemented. -/
  | ed
  /-- 0xFD is CALL; 0xDD and 0xED are unimplemented. -/
  | fd
  deriving DecidableEq, Repr

end Sys2Proof
end

