-- ==== Sys2Proof/WellFormed.lean ====
section
/-! DEFINITION. Which terms of `Instr` are instructions. The operand types already carry every range
the encoding has; two checks remain, each for a term that no byte encodes. -/

namespace Sys2Proof

/-- `i` is an instruction of the core. `MOV M,M` does not exist: its pattern `01 110 110` is HLT
(R68, R111, 90_conflicts.md C4). A NOP alias has `xxx` other than 000: `00 000 000` is NOP itself
(R67, R71). Every other term is an instruction. -/
def Instr.wf : Instr → Bool
  | .mov dst src => !(dst == .m && src == .m)
  | .nopAlias xxx => !(xxx == .f000)
  | .nop | .lxi _ _ | .stax _ | .ldax _ | .shld _ | .lhld _ | .sta _ | .lda _ | .inx _ | .dcx _
  | .dad _ | .inr _ | .dcr _ | .mvi _ _ | .rlc | .rrc | .ral | .rar | .daa | .cma | .stc | .cmc
  | .hlt | .add _ | .adc _ | .sub _ | .sbb _ | .ana _ | .xra _ | .ora _ | .cmp _
  | .rnz | .rz | .rnc | .rc | .rpo | .rpe | .rp | .rm
  | .jnz _ | .jz _ | .jnc _ | .jc _ | .jpo _ | .jpe _ | .jp _ | .jm _
  | .cnz _ | .cz _ | .cnc _ | .cc _ | .cpo _ | .cpe _ | .cp _ | .cm _
  | .pop _ | .popPsw | .push _ | .pushPsw | .jmp _ | .jmpAlias _ | .call _ | .callAlias _
  | .ret | .retAlias | .adi _ | .aci _ | .sui _ | .sbi _ | .ani _ | .xri _ | .ori _ | .cpi _
  | .xthl | .pchl | .xchg | .sphl | .unimplRst _ | .unimplOut | .unimplIn | .unimplDi | .unimplEi
  | .unimpl0xED | .unimpl0xFD => true

end Sys2Proof
end

