-- ==== Sys2Proof/Decode.lean ====
section
/-! DEFINITION. The decoder, total on any bytes, and the encoder, both written from the tables of
30_encoding.md (R60 to R72) for every value of `CALL_ALIAS`. -/

namespace Sys2Proof

/-! ## Field values -/

/-- Register field values (R63). -/
def regOf : Field3 → Reg
  | .f000 => .b
  | .f001 => .c
  | .f010 => .d
  | .f011 => .e
  | .f100 => .h
  | .f101 => .l
  | .f110 => .m
  | .f111 => .a

/-- The register field of a register (R63). -/
def regField : Reg → Field3
  | .b => .f000
  | .c => .f001
  | .d => .f010
  | .e => .f011
  | .h => .f100
  | .l => .f101
  | .m => .f110
  | .a => .f111

/-- Pair field values of LXI, INX, DCX, DAD (R64). -/
def pairOf : Field2 → Pair
  | .f00 => .bc
  | .f01 => .de
  | .f10 => .hl
  | .f11 => .sp

/-- The pair field of a pair (R64). -/
def pairBits : Pair → Field2
  | .bc => .f00
  | .de => .f01
  | .hl => .f10
  | .sp => .f11

/-- The pair field of a PUSH or POP pair (R64). -/
def stackPairBits : StackPair → Field2
  | .bc => .f00
  | .de => .f01
  | .hl => .f10

/-- The pair field of an LDAX or STAX pair: bit 5 is 0, bit 4 selects (R64). -/
def indirectPairBits : IndirectPair → Field2
  | .bc => .f00
  | .de => .f01

/-! ## The opcode map -/

/-- Quadrant 00 (R67). -/
def decodeQ00 (ddd sss : Field3) (b2 b3 : Byte) : Instr :=
  match sss with
  | .f000 =>
    match ddd with
    | .f000 => .nop
    | xxx => .nopAlias xxx
  | .f001 =>
    match pairForm ddd with
    | (rp, false) => .lxi (pairOf rp) (wordOf b3 b2)
    | (rp, true) => .dad (pairOf rp)
  | .f010 =>
    match ddd with
    | .f000 => .stax .bc
    | .f001 => .ldax .bc
    | .f010 => .stax .de
    | .f011 => .ldax .de
    | .f100 => .shld (wordOf b3 b2)
    | .f101 => .lhld (wordOf b3 b2)
    | .f110 => .sta (wordOf b3 b2)
    | .f111 => .lda (wordOf b3 b2)
  | .f011 =>
    match pairForm ddd with
    | (rp, false) => .inx (pairOf rp)
    | (rp, true) => .dcx (pairOf rp)
  | .f100 => .inr (regOf ddd)
  | .f101 => .dcr (regOf ddd)
  | .f110 => .mvi (regOf ddd) b2
  | .f111 =>
    match ddd with
    | .f000 => .rlc
    | .f001 => .rrc
    | .f010 => .ral
    | .f011 => .rar
    | .f100 => .daa
    | .f101 => .cma
    | .f110 => .stc
    | .f111 => .cmc

/-- Quadrant 01 (R68): MOV, but for `01 110 110`, which is HLT. -/
def decodeQ01 (ddd sss : Field3) : Instr :=
  match ddd, sss with
  | .f110, .f110 => .hlt
  | d, s => .mov (regOf d) (regOf s)

/-- Quadrant 10 (R69): the ALU operations on A. -/
def decodeQ10 (ooo sss : Field3) : Instr :=
  match ooo with
  | .f000 => .add (regOf sss)
  | .f001 => .adc (regOf sss)
  | .f010 => .sub (regOf sss)
  | .f011 => .sbb (regOf sss)
  | .f100 => .ana (regOf sss)
  | .f101 => .xra (regOf sss)
  | .f110 => .ora (regOf sss)
  | .f111 => .cmp (regOf sss)

/-- A byte of the CALL family other than 0xCD, named by the `CallAlias` that would make it CALL
(R70, R71, R246). For the two bytes that are not `CALL_ALIAS` the table has the rows 0xED and 0xFD;
the byte 0xDD takes the row of the byte that is CALL instead. -/
def callFamily (ca byte : CallAlias) (addr : Word) : Instr :=
  match ca, byte with
  | .dd, .dd => .callAlias addr
  | .dd, .ed => .unimpl0xED
  | .dd, .fd => .unimpl0xFD
  | .ed, .dd => .unimpl0xED
  | .ed, .ed => .callAlias addr
  | .ed, .fd => .unimpl0xFD
  | .fd, .dd => .unimpl0xFD
  | .fd, .ed => .unimpl0xED
  | .fd, .fd => .callAlias addr

/-- Quadrant 11 (R70). -/
def decodeQ11 (ca : CallAlias) (ddd sss : Field3) (b2 b3 : Byte) : Instr :=
  match sss with
  | .f000 =>
    match ddd with
    | .f000 => .rnz
    | .f001 => .rz
    | .f010 => .rnc
    | .f011 => .rc
    | .f100 => .rpo
    | .f101 => .rpe
    | .f110 => .rp
    | .f111 => .rm
  | .f001 =>
    match ddd with
    | .f000 => .pop .bc
    | .f001 => .ret
    | .f010 => .pop .de
    | .f011 => .retAlias
    | .f100 => .pop .hl
    | .f101 => .pchl
    | .f110 => .popPsw
    | .f111 => .sphl
  | .f010 =>
    match ddd with
    | .f000 => .jnz (wordOf b3 b2)
    | .f001 => .jz (wordOf b3 b2)
    | .f010 => .jnc (wordOf b3 b2)
    | .f011 => .jc (wordOf b3 b2)
    | .f100 => .jpo (wordOf b3 b2)
    | .f101 => .jpe (wordOf b3 b2)
    | .f110 => .jp (wordOf b3 b2)
    | .f111 => .jm (wordOf b3 b2)
  | .f011 =>
    match ddd with
    | .f000 => .jmp (wordOf b3 b2)
    | .f001 => .jmpAlias (wordOf b3 b2)
    | .f010 => .unimplOut
    | .f011 => .unimplIn
    | .f100 => .xthl
    | .f101 => .xchg
    | .f110 => .unimplDi
    | .f111 => .unimplEi
  | .f100 =>
    match ddd with
    | .f000 => .cnz (wordOf b3 b2)
    | .f001 => .cz (wordOf b3 b2)
    | .f010 => .cnc (wordOf b3 b2)
    | .f011 => .cc (wordOf b3 b2)
    | .f100 => .cpo (wordOf b3 b2)
    | .f101 => .cpe (wordOf b3 b2)
    | .f110 => .cp (wordOf b3 b2)
    | .f111 => .cm (wordOf b3 b2)
  | .f101 =>
    match ddd with
    | .f000 => .push .bc
    | .f001 => .call (wordOf b3 b2)
    | .f010 => .push .de
    | .f011 => callFamily ca .dd (wordOf b3 b2)
    | .f100 => .push .hl
    | .f101 => callFamily ca .ed (wordOf b3 b2)
    | .f110 => .pushPsw
    | .f111 => callFamily ca .fd (wordOf b3 b2)
  | .f110 =>
    match ddd with
    | .f000 => .adi b2
    | .f001 => .aci b2
    | .f010 => .sui b2
    | .f011 => .sbi b2
    | .f100 => .ani b2
    | .f101 => .xri b2
    | .f110 => .ori b2
    | .f111 => .cpi b2
  | .f111 => .unimplRst ddd

/-- The instruction with first byte `op`, whose second and third bytes are `b2` and `b3` where it has
them: a function of the opcode byte and the bytes that follow it, and of nothing else (R74). -/
def decodeOp (ca : CallAlias) (op b2 b3 : Byte) : Instr :=
  match qqField op with
  | .f00 => decodeQ00 (dddField op) (sssField op) b2 b3
  | .f01 => decodeQ01 (dddField op) (sssField op)
  | .f10 => decodeQ10 (dddField op) (sssField op)
  | .f11 => decodeQ11 ca (dddField op) (sssField op) b2 b3

/-! ## Formats and lengths -/

/-- The three formats (R61). -/
inductive Format
  /-- One byte. -/
  | f1
  /-- Two bytes: opcode, d8. -/
  | f2
  /-- Three bytes: opcode, low byte, high byte. -/
  | f3
  deriving DecidableEq, Repr

/-- The format of each instruction (R61): F2 and F3 as listed there, F1 for every other. -/
def Instr.format : Instr → Format
  | .mvi _ _ | .adi _ | .aci _ | .sui _ | .sbi _ | .ani _ | .xri _ | .ori _ | .cpi _ => .f2
  | .lxi _ _ | .sta _ | .lda _ | .shld _ | .lhld _
  | .jmp _ | .jmpAlias _ | .jnz _ | .jz _ | .jnc _ | .jc _ | .jpo _ | .jpe _ | .jp _ | .jm _
  | .call _ | .callAlias _ | .cnz _ | .cz _ | .cnc _ | .cc _ | .cpo _ | .cpe _ | .cp _ | .cm _ => .f3
  | .nop | .nopAlias _ | .stax _ | .ldax _ | .inx _ | .dcx _ | .dad _ | .inr _ | .dcr _
  | .rlc | .rrc | .ral | .rar | .daa | .cma | .stc | .cmc | .mov _ _ | .hlt
  | .add _ | .adc _ | .sub _ | .sbb _ | .ana _ | .xra _ | .ora _ | .cmp _
  | .rnz | .rz | .rnc | .rc | .rpo | .rpe | .rp | .rm
  | .pop _ | .popPsw | .push _ | .pushPsw | .ret | .retAlias
  | .xthl | .pchl | .xchg | .sphl
  | .unimplRst _ | .unimplOut | .unimplIn | .unimplDi | .unimplEi | .unimpl0xED | .unimpl0xFD => .f1

/-- The length of a format in bytes (R61). -/
def Format.length : Format → Nat
  | .f1 => 1
  | .f2 => 2
  | .f3 => 3

/-- The length of an instruction in bytes (R60). -/
def Instr.length (i : Instr) : Nat := i.format.length

/-- The format of the instruction with first byte `op`: the first byte alone determines it (R60). -/
def opcodeFormat (ca : CallAlias) (op : Byte) : Format := (decodeOp ca op 0 0).format

/-! ## Decoding a list of bytes -/

/-- Why a list of bytes holds no instruction. Every opcode byte has a meaning (R73), so there is one
reason only, and the machine never meets it (log 18). -/
inductive DecodeReject
  /-- The list ends before the instruction does. -/
  | truncated
  deriving DecidableEq, Repr

/-- What decoding a list of bytes gives. -/
inductive Decoded
  /-- The instruction and the bytes after it. -/
  | instr (i : Instr) (rest : List Byte)
  | rejected (why : DecodeReject)
  deriving DecidableEq, Repr

/-- Decode the instruction at the front of a list of bytes (R60, R66, R73). -/
def decodeWith (ca : CallAlias) : List Byte → Decoded
  | [] => .rejected .truncated
  | op :: rest =>
    match opcodeFormat ca op with
    | .f1 => .instr (decodeOp ca op 0 0) rest
    | .f2 =>
      match rest with
      | [] => .rejected .truncated
      | b2 :: rest => .instr (decodeOp ca op b2 0) rest
    | .f3 =>
      match rest with
      | [] => .rejected .truncated
      | [_] => .rejected .truncated
      | b2 :: b3 :: rest => .instr (decodeOp ca op b2 b3) rest

/-- The value of `CALL_ALIAS` in the machine `step` runs: the spec's default (R4, D4).
DESIGN CHOICE, unsafe (log 1). -/
def callAlias : CallAlias := .dd

/-- Decode with the spec's default `CALL_ALIAS`. -/
def decode : List Byte → Decoded := decodeWith callAlias

/-! ## Encoding -/

/-- The `ddd` field of the CALL-family byte that stands for `byte` (R70). -/
def callFamilyField : CallAlias → Field3
  | .dd => .f011
  | .ed => .f101
  | .fd => .f111

/-- The CALL-family byte that takes the row `UNIMPL__0xED` (the inverse of `callFamily`). -/
def unimplEdByte : CallAlias → CallAlias
  | .dd => .ed
  | .ed => .dd
  | .fd => .ed

/-- The CALL-family byte that takes the row `UNIMPL__0xFD` (the inverse of `callFamily`). -/
def unimplFdByte : CallAlias → CallAlias
  | .dd => .fd
  | .ed => .fd
  | .fd => .dd

/-- The opcode byte of each instruction (R67 to R72). -/
def opcodeByte (ca : CallAlias) : Instr → Byte
  | .nop => opcodeOf .f00 .f000 .f000
  | .nopAlias xxx => opcodeOf .f00 xxx .f000
  | .lxi rp _ => opcodeOf .f00 (pairField (pairBits rp) false) .f001
  | .dad rp => opcodeOf .f00 (pairField (pairBits rp) true) .f001
  | .stax p => opcodeOf .f00 (pairField (indirectPairBits p) false) .f010
  | .ldax p => opcodeOf .f00 (pairField (indirectPairBits p) true) .f010
  | .shld _ => opcodeOf .f00 .f100 .f010
  | .lhld _ => opcodeOf .f00 .f101 .f010
  | .sta _ => opcodeOf .f00 .f110 .f010
  | .lda _ => opcodeOf .f00 .f111 .f010
  | .inx rp => opcodeOf .f00 (pairField (pairBits rp) false) .f011
  | .dcx rp => opcodeOf .f00 (pairField (pairBits rp) true) .f011
  | .inr r => opcodeOf .f00 (regField r) .f100
  | .dcr r => opcodeOf .f00 (regField r) .f101
  | .mvi r _ => opcodeOf .f00 (regField r) .f110
  | .rlc => opcodeOf .f00 .f000 .f111
  | .rrc => opcodeOf .f00 .f001 .f111
  | .ral => opcodeOf .f00 .f010 .f111
  | .rar => opcodeOf .f00 .f011 .f111
  | .daa => opcodeOf .f00 .f100 .f111
  | .cma => opcodeOf .f00 .f101 .f111
  | .stc => opcodeOf .f00 .f110 .f111
  | .cmc => opcodeOf .f00 .f111 .f111
  | .mov dst src => opcodeOf .f01 (regField dst) (regField src)
  | .hlt => opcodeOf .f01 .f110 .f110
  | .add r => opcodeOf .f10 .f000 (regField r)
  | .adc r => opcodeOf .f10 .f001 (regField r)
  | .sub r => opcodeOf .f10 .f010 (regField r)
  | .sbb r => opcodeOf .f10 .f011 (regField r)
  | .ana r => opcodeOf .f10 .f100 (regField r)
  | .xra r => opcodeOf .f10 .f101 (regField r)
  | .ora r => opcodeOf .f10 .f110 (regField r)
  | .cmp r => opcodeOf .f10 .f111 (regField r)
  | .rnz => opcodeOf .f11 .f000 .f000
  | .rz => opcodeOf .f11 .f001 .f000
  | .rnc => opcodeOf .f11 .f010 .f000
  | .rc => opcodeOf .f11 .f011 .f000
  | .rpo => opcodeOf .f11 .f100 .f000
  | .rpe => opcodeOf .f11 .f101 .f000
  | .rp => opcodeOf .f11 .f110 .f000
  | .rm => opcodeOf .f11 .f111 .f000
  | .pop rp => opcodeOf .f11 (pairField (stackPairBits rp) false) .f001
  | .popPsw => opcodeOf .f11 (pairField .f11 false) .f001
  | .ret => opcodeOf .f11 .f001 .f001
  | .retAlias => opcodeOf .f11 .f011 .f001
  | .pchl => opcodeOf .f11 .f101 .f001
  | .sphl => opcodeOf .f11 .f111 .f001
  | .jnz _ => opcodeOf .f11 .f000 .f010
  | .jz _ => opcodeOf .f11 .f001 .f010
  | .jnc _ => opcodeOf .f11 .f010 .f010
  | .jc _ => opcodeOf .f11 .f011 .f010
  | .jpo _ => opcodeOf .f11 .f100 .f010
  | .jpe _ => opcodeOf .f11 .f101 .f010
  | .jp _ => opcodeOf .f11 .f110 .f010
  | .jm _ => opcodeOf .f11 .f111 .f010
  | .jmp _ => opcodeOf .f11 .f000 .f011
  | .jmpAlias _ => opcodeOf .f11 .f001 .f011
  | .unimplOut => opcodeOf .f11 .f010 .f011
  | .unimplIn => opcodeOf .f11 .f011 .f011
  | .xthl => opcodeOf .f11 .f100 .f011
  | .xchg => opcodeOf .f11 .f101 .f011
  | .unimplDi => opcodeOf .f11 .f110 .f011
  | .unimplEi => opcodeOf .f11 .f111 .f011
  | .cnz _ => opcodeOf .f11 .f000 .f100
  | .cz _ => opcodeOf .f11 .f001 .f100
  | .cnc _ => opcodeOf .f11 .f010 .f100
  | .cc _ => opcodeOf .f11 .f011 .f100
  | .cpo _ => opcodeOf .f11 .f100 .f100
  | .cpe _ => opcodeOf .f11 .f101 .f100
  | .cp _ => opcodeOf .f11 .f110 .f100
  | .cm _ => opcodeOf .f11 .f111 .f100
  | .push rp => opcodeOf .f11 (pairField (stackPairBits rp) false) .f101
  | .pushPsw => opcodeOf .f11 (pairField .f11 false) .f101
  | .call _ => opcodeOf .f11 .f001 .f101
  | .callAlias _ => opcodeOf .f11 (callFamilyField ca) .f101
  | .unimpl0xED => opcodeOf .f11 (callFamilyField (unimplEdByte ca)) .f101
  | .unimpl0xFD => opcodeOf .f11 (callFamilyField (unimplFdByte ca)) .f101
  | .adi _ => opcodeOf .f11 .f000 .f110
  | .aci _ => opcodeOf .f11 .f001 .f110
  | .sui _ => opcodeOf .f11 .f010 .f110
  | .sbi _ => opcodeOf .f11 .f011 .f110
  | .ani _ => opcodeOf .f11 .f100 .f110
  | .xri _ => opcodeOf .f11 .f101 .f110
  | .ori _ => opcodeOf .f11 .f110 .f110
  | .cpi _ => opcodeOf .f11 .f111 .f110
  | .unimplRst nnn => opcodeOf .f11 nnn .f111

/-- The bytes after the opcode: d8, or the low then the high byte of d16 or addr (R61, R66). -/
def operandBytes : Instr → List Byte
  | .mvi _ d8 | .adi d8 | .aci d8 | .sui d8 | .sbi d8 | .ani d8 | .xri d8 | .ori d8 | .cpi d8 => [d8]
  | .lxi _ w | .sta w | .lda w | .shld w | .lhld w
  | .jmp w | .jmpAlias w | .jnz w | .jz w | .jnc w | .jc w | .jpo w | .jpe w | .jp w | .jm w
  | .call w | .callAlias w | .cnz w | .cz w | .cnc w | .cc w | .cpo w | .cpe w | .cp w | .cm w =>
    [loByte w, hiByte w]
  | .nop | .nopAlias _ | .stax _ | .ldax _ | .inx _ | .dcx _ | .dad _ | .inr _ | .dcr _
  | .rlc | .rrc | .ral | .rar | .daa | .cma | .stc | .cmc | .mov _ _ | .hlt
  | .add _ | .adc _ | .sub _ | .sbb _ | .ana _ | .xra _ | .ora _ | .cmp _
  | .rnz | .rz | .rnc | .rc | .rpo | .rpe | .rp | .rm
  | .pop _ | .popPsw | .push _ | .pushPsw | .ret | .retAlias
  | .xthl | .pchl | .xchg | .sphl
  | .unimplRst _ | .unimplOut | .unimplIn | .unimplDi | .unimplEi | .unimpl0xED | .unimpl0xFD => []

/-- The bytes of an instruction in ascending address order (R61). -/
def encodeWith (ca : CallAlias) (i : Instr) : List Byte := opcodeByte ca i :: operandBytes i

/-- Encode with the spec's default `CALL_ALIAS`. -/
def encode : Instr → List Byte := encodeWith callAlias

/-! ## The host's numbering of an instruction's bits -/

/-- The first three bytes of the `nbits`-bit number `w`, first byte least significant, the bits above
`nbits` zero (log 19). -/
def tableBytes (nbits w : Nat) : List Byte :=
  [BitVec.ofNat 8 (w % 2 ^ nbits), BitVec.ofNat 8 (w % 2 ^ nbits / 256),
   BitVec.ofNat 8 (w % 2 ^ nbits / 65536)]

/-- The instruction the decoder reads from the instruction whose bits are `w`, bit 0 the least
significant bit of the first byte. -/
def decodeTableWord (nbits w : Nat) : Option Instr :=
  match decode (tableBytes nbits w) with
  | .instr i _ => some i
  | .rejected _ => none

end Sys2Proof
end

