-- ==== Sys2Proof/Machine/Fetch.lean ====
section
/-! DEFINITION. The decoder's contract with the fetch unit (40_step_cycle.md R92), and placing an
instruction's bytes where the next fetch reads them. -/

namespace Sys2Proof.Machine

/-- `Decode(opcode)`: the operation of an opcode byte already fetched, pulling 0, 1 or 2 further bytes
through the fetch unit (R92). -/
def decodeFetch (ca : CallAlias) (op : Byte) (s : State) : Instr × State :=
  match opcodeFormat ca op with
  | .f1 => (decodeOp ca op 0 0, s)
  | .f2 =>
    let (d8, s1) := fetchByte s
    (decodeOp ca op d8 0, s1)
  | .f3 =>
    let (w, s1) := fetchWord s
    (decodeOp ca op (loByte w) (hiByte w), s1)

/-- Fetch the opcode byte and decode it: the instruction at PC, and the state in which it executes,
PC past all its bytes (R94, R97). -/
def fetchInstr (ca : CallAlias) (s : State) : Instr × State :=
  let (op, s1) := fetchByte s
  decodeFetch ca op s1

/-- The state with the bytes of an instruction stored from PC on, and able to fetch: a core that is
halted would fetch nothing (R94), so HALTED is cleared as a host may do (R27) (log 19). -/
def placeInstr (s : State) (bytes : List Byte) : State :=
  { writeBytes s s.pc bytes with halted := false }

end Sys2Proof.Machine
end

