-- ==== Sys2Proof/Machine/Cycle.lean ====
section
/-! DEFINITION. One step of the processor for every value of `CALL_ALIAS` (40_step_cycle.md R94). -/

namespace Sys2Proof.Machine

/-- `Step()`: nothing while halted (R96, log 3); otherwise fetch, decode and execute exactly one
instruction (R94). -/
def stepWith (ca : CallAlias) (s : State) : Result :=
  if s.halted then .next s
  else
    let (i, s1) := fetchInstr ca s
    exec i s1

end Sys2Proof.Machine
end

