-- ==== Sys2Proof/Machine/Step.lean ====
section
/-! DEFINITION. The step of the machine the package is about: the spec's default `CALL_ALIAS`. -/

namespace Sys2Proof.Machine

/-- One step (R94), with `CALL_ALIAS` at the spec's default (log 1). -/
def step (s : State) : Host.Outcome State Fault Refusal := stepWith callAlias s

/-- `s` with the instruction whose bits are `w` stored where `step` fetches next, and HALTED clear so
that it fetches (log 19). The program counter is not moved. -/
def State.withFetchWord (s : State) (nbits w : Nat) : State := placeInstr s (tableBytes nbits w)

end Sys2Proof.Machine
end

