-- ==== Sys2Proof/Machine/HostPort.lean ====
section
/-! DEFINITION. The core's interface to its host: the controls `reset`, `step`, `halted` (R26) and the
access to state between steps (R27). The host acts between steps, one action at a time (R263, U6),
so an action is a function on the state; no step contains one (log 16). -/

namespace Sys2Proof.Machine

/-- The flags, by name, for the host's flag accessors. -/
inductive FlagName
  | s | z | ac | p | cy
  deriving DecidableEq, Repr

/-- The 16-bit values of the host's pair accessors: "B(=BC), D(=DE), H(=HL), PSW(=A:flags)" (R13). -/
inductive HostPair
  | bc | de | hl | psw
  deriving DecidableEq, Repr

/-- What the host can do between steps (R26, R27, R57). -/
inductive HostAction
  | reset
  | step
  /-- `store(reg, byte)`; index M redirects to memory (R11). -/
  | store (r : Reg) (v : Byte)
  /-- `storeX(pair, word)` (R13, R20). -/
  | storeX (p : HostPair) (v : Word)
  | setFlag (f : FlagName) (v : Bool)
  | toggleCarry
  | setPC (v : Word)
  | setSP (v : Word)
  /-- Write HALTED. -/
  | setStopped (v : Bool)
  | push (v : Word)
  | pop
  /-- Memory's `store(Word, byte)`; a value wider than 8 bits is truncated (R41). -/
  | storeMem (addr : Word) (v : Nat)
  /-- Write assembled bytes starting at address 0 (R57, R283). -/
  | loadProgram (bytes : List Byte)
  deriving DecidableEq, Repr

/-- One flag of the register bank. -/
def flagOf (f : Flags) : FlagName → Bool
  | .s => f.s
  | .z => f.z
  | .ac => f.ac
  | .p => f.p
  | .cy => f.cy

/-- Write one flag. -/
def withFlag (f : Flags) (n : FlagName) (v : Bool) : Flags :=
  match n with
  | .s => { f with s := v }
  | .z => { f with z := v }
  | .ac => { f with ac := v }
  | .p => { f with p := v }
  | .cy => { f with cy := v }

/-- `loadX(pair)` (R13, R19). -/
def hostLoadX (s : State) : HostPair → Word
  | .bc => readPair s .bc
  | .de => readPair s .de
  | .hl => readPair s .hl
  | .psw => readPsw s

/-- `storeX(pair, word)` (R13, R20). -/
def hostStoreX (s : State) (p : HostPair) (v : Word) : State :=
  match p with
  | .bc => writePair s .bc v
  | .de => writePair s .de v
  | .hl => writePair s .hl v
  | .psw => writePsw s v

/-- The `halted` output, the source's `getStopped()` (R26). -/
def haltedOut (s : State) : Bool := s.halted

/-- The effect of a host action on the state (R26, R27). -/
def hostAct (ca : CallAlias) (act : HostAction) (s : State) : Result :=
  match act with
  | .reset => .next (resetCore s)
  | .step => stepWith ca s
  | .store r v => .next (writeReg s r v)
  | .storeX p v => .next (hostStoreX s p v)
  | .setFlag f v => .next { s with flags := withFlag s.flags f v }
  | .toggleCarry => .next { s with flags := withFlag s.flags .cy (!s.flags.cy) }
  | .setPC v => .next { s with pc := v }
  | .setSP v => .next { s with sp := v }
  | .setStopped v => .next { s with halted := v }
  | .push v => .next (push16 s v)
  | .pop => .next (pop16 s).2
  | .storeMem addr v => .next (writeMem s addr (BitVec.ofNat 8 v))
  | .loadProgram bytes => .next (writeBytes s 0x0000 bytes)

end Sys2Proof.Machine
end

