-- ==== Sys2Proof/Safety.lean ====
section
/-! DEFINITION. The words the claims use: the invariant, what each instruction may touch (the tables of
the spec, written out independently of the meanings), and what an ALU result is in plain numbers. -/

namespace Sys2Proof.Machine

/-! ## States -/

/-- The invariant of every state a run reaches: memory is in its canonical form. The other fields are
bit vectors and booleans, every value of which is legal (R10, R16, R17). -/
def State.Inv (s : State) : Prop := s.mem.wf = true

/-- A state before the first reset: memory all 0x00, the register bank unspecified, so arbitrary
(R29, R282, U2, log 14). -/
def State.PowerOn (s : State) : Prop := s.mem = []

/-- `s` and `t` hold the same byte at every address but those listed. -/
def SameMemBut (xs : List Word) (s t : State) : Prop := ∀ x, x ∉ xs → readMem t x = readMem s x

/-- `s` and `t` hold the same byte at every address. -/
def SameMem (s t : State) : Prop := ∀ x, readMem t x = readMem s x

/-- `s` and `t` agree on every physical register but those listed. -/
def SameRegsBut (rs : List Reg) (s t : State) : Prop :=
  ∀ r, r ≠ .m → r ∉ rs → readReg t r = readReg s r

/-- `s` and `t` agree on every flag but those listed. -/
def SameFlagsBut (fs : List FlagName) (s t : State) : Prop :=
  ∀ f, f ∉ fs → flagOf t.flags f = flagOf s.flags f

/-! ## Encodings, written as numbers -/

/-- The register indices (R63). -/
def regIndex : Reg → Nat
  | .b => 0
  | .c => 1
  | .d => 2
  | .e => 3
  | .h => 4
  | .l => 5
  | .m => 6
  | .a => 7

/-- The pair codes of LXI, INX, DCX and DAD (R64). -/
def pairIndex : Pair → Nat
  | .bc => 0
  | .de => 1
  | .hl => 2
  | .sp => 3

/-- The byte a number stands for. -/
def byteOf (n : Nat) : Byte := BitVec.ofNat 8 n

/-- The bytes decode to exactly this instruction whatever follows and whatever `CALL_ALIAS` is, and no
byte more is taken. -/
def DecodesTo (bytes : List Byte) (i : Instr) : Prop :=
  ∀ ca rest, decodeWith ca (bytes ++ rest) = .instr i rest

/-- The byte a value of `CALL_ALIAS` names (R4). -/
def callAliasByte : CallAlias → Byte
  | .dd => 0xDD
  | .ed => 0xED
  | .fd => 0xFD

/-- The kinds of opcode table rows (R73). -/
inductive RowKind
  | canonical | aliased | unimplemented
  deriving DecidableEq, Repr

/-- The kind of an instruction's row (R71, R72). -/
def rowKind : Instr → RowKind
  | .nopAlias _ | .jmpAlias _ | .callAlias _ | .retAlias => .aliased
  | .unimplRst _ | .unimplOut | .unimplIn | .unimplDi | .unimplEi | .unimpl0xED | .unimpl0xFD =>
    .unimplemented
  | .nop | .lxi _ _ | .stax _ | .ldax _ | .shld _ | .lhld _ | .sta _ | .lda _ | .inx _ | .dcx _
  | .dad _ | .inr _ | .dcr _ | .mvi _ _ | .rlc | .rrc | .ral | .rar | .daa | .cma | .stc | .cmc
  | .mov _ _ | .hlt | .add _ | .adc _ | .sub _ | .sbb _ | .ana _ | .xra _ | .ora _ | .cmp _
  | .rnz | .rz | .rnc | .rc | .rpo | .rpe | .rp | .rm
  | .jnz _ | .jz _ | .jnc _ | .jc _ | .jpo _ | .jpe _ | .jp _ | .jm _
  | .cnz _ | .cz _ | .cnc _ | .cc _ | .cpo _ | .cpe _ | .cp _ | .cm _
  | .pop _ | .popPsw | .push _ | .pushPsw | .jmp _ | .call _ | .ret
  | .adi _ | .aci _ | .sui _ | .sbi _ | .ani _ | .xri _ | .ori _ | .cpi _
  | .xthl | .pchl | .xchg | .sphl => .canonical

/-- How many opcode bytes from `lo` on, `n` of them, decode to a row of kind `k`. -/
def countKind (ca : CallAlias) (k : RowKind) (lo n : Nat) : Nat :=
  ((List.range n).filter fun j => rowKind (decodeOp ca (byteOf (lo + j)) 0 0) == k).length

/-! ## What an instruction touches, after its fetch -/

/-- The byte at HL when a register operand is M, else no byte (R11). -/
def memOperand (r : Reg) (s : State) : List Word := if r = .m then [hlWord s] else []

/-- The two bytes a push stores to when it happens, in order (R230). -/
def pushed (taken : Bool) (s : State) : List Word := if taken then [s.sp - 1, s.sp - 2] else []

/-- The two bytes a pop reads when it happens, in order (R231). -/
def popped (taken : Bool) (s : State) : List Word := if taken then [s.sp, s.sp + 1] else []

/-- The addresses an instruction stores to, in order (R48). -/
def storesTo (i : Instr) (s : State) : List Word :=
  match i with
  | .mov r _ | .mvi r _ | .inr r | .dcr r => memOperand r s
  | .sta addr => [addr]
  | .shld addr => [addr, addr + 1]
  | .stax p => [readPair s (indirectPair p)]
  | .push _ | .pushPsw | .call _ | .callAlias _ => pushed true s
  | .cnz _ => pushed (!s.flags.z) s
  | .cz _ => pushed s.flags.z s
  | .cnc _ => pushed (!s.flags.cy) s
  | .cc _ => pushed s.flags.cy s
  | .cpo _ => pushed (!s.flags.p) s
  | .cpe _ => pushed s.flags.p s
  | .cp _ => pushed (!s.flags.s) s
  | .cm _ => pushed s.flags.s s
  | .xthl => [s.sp, s.sp + 1]
  | .nop | .nopAlias _ | .lxi _ _ | .ldax _ | .lhld _ | .lda _ | .inx _ | .dcx _ | .dad _ | .rlc
  | .rrc | .ral | .rar | .daa | .cma | .stc | .cmc | .hlt | .add _ | .adc _ | .sub _ | .sbb _
  | .ana _ | .xra _ | .ora _ | .cmp _ | .rnz | .rz | .rnc | .rc | .rpo | .rpe | .rp | .rm
  | .jnz _ | .jz _ | .jnc _ | .jc _ | .jpo _ | .jpe _ | .jp _ | .jm _ | .pop _ | .popPsw | .jmp _
  | .jmpAlias _ | .ret | .retAlias | .adi _ | .aci _ | .sui _ | .sbi _ | .ani _ | .xri _ | .ori _
  | .cpi _ | .pchl | .xchg | .sphl | .unimplRst _ | .unimplOut | .unimplIn | .unimplDi
  | .unimplEi | .unimpl0xED | .unimpl0xFD => []

/-- The addresses an instruction reads data from, in order (R48). -/
def loadsFrom (i : Instr) (s : State) : List Word :=
  match i with
  | .mov _ r | .add r | .adc r | .sub r | .sbb r | .ana r | .xra r | .ora r | .cmp r | .inr r
  | .dcr r => memOperand r s
  | .lda addr => [addr]
  | .lhld addr => [addr, addr + 1]
  | .ldax p => [readPair s (indirectPair p)]
  | .pop _ | .popPsw | .ret | .retAlias | .xthl => popped true s
  | .rnz => popped (!s.flags.z) s
  | .rz => popped s.flags.z s
  | .rnc => popped (!s.flags.cy) s
  | .rc => popped s.flags.cy s
  | .rpo => popped (!s.flags.p) s
  | .rpe => popped s.flags.p s
  | .rp => popped (!s.flags.s) s
  | .rm => popped s.flags.s s
  | .nop | .nopAlias _ | .lxi _ _ | .stax _ | .shld _ | .sta _ | .inx _ | .dcx _ | .dad _
  | .mvi _ _ | .rlc | .rrc | .ral | .rar | .daa | .cma | .stc | .cmc | .hlt | .jnz _ | .jz _
  | .jnc _ | .jc _ | .jpo _ | .jpe _ | .jp _ | .jm _ | .cnz _ | .cz _ | .cnc _ | .cc _ | .cpo _
  | .cpe _ | .cp _ | .cm _ | .push _ | .pushPsw | .jmp _ | .jmpAlias _ | .call _ | .callAlias _
  | .adi _ | .aci _ | .sui _ | .sbi _ | .ani _ | .xri _ | .ori _ | .cpi _ | .pchl | .xchg | .sphl
  | .unimplRst _ | .unimplOut | .unimplIn | .unimplDi | .unimplEi | .unimpl0xED | .unimpl0xFD => []

/-- The two registers of a pair, high byte first (R13); SP is none of them. -/
def pairRegs : Pair → List Reg
  | .bc => [.b, .c]
  | .de => [.d, .e]
  | .hl => [.h, .l]
  | .sp => []

/-- The registers an instruction may write (10_state.md section 10). -/
def regsWritten : Instr → List Reg
  | .mov r _ | .mvi r _ | .inr r | .dcr r => [r]
  | .lxi rp _ | .inx rp | .dcx rp => pairRegs rp
  | .pop rp => pairRegs (stackPair rp)
  | .lda _ | .ldax _ | .add _ | .adc _ | .sub _ | .sbb _ | .ana _ | .xra _ | .ora _ | .adi _
  | .aci _ | .sui _ | .sbi _ | .ani _ | .xri _ | .ori _ | .daa | .rlc | .rrc | .ral | .rar | .cma
  | .popPsw => [.a]
  | .lhld _ | .dad _ | .xthl => [.h, .l]
  | .xchg => [.d, .e, .h, .l]
  | .nop | .nopAlias _ | .stax _ | .shld _ | .sta _ | .stc | .cmc | .hlt | .cmp _ | .rnz | .rz
  | .rnc | .rc | .rpo | .rpe | .rp | .rm | .jnz _ | .jz _ | .jnc _ | .jc _ | .jpo _ | .jpe _
  | .jp _ | .jm _ | .cnz _ | .cz _ | .cnc _ | .cc _ | .cpo _ | .cpe _ | .cp _ | .cm _ | .push _
  | .pushPsw | .jmp _ | .jmpAlias _ | .call _ | .callAlias _ | .ret | .retAlias | .cpi _ | .pchl
  | .sphl | .unimplRst _ | .unimplOut | .unimplIn | .unimplDi | .unimplEi | .unimpl0xED
  | .unimpl0xFD => []

/-- The flags an instruction may write (R18). -/
def flagsWritten : Instr → List FlagName
  | .add _ | .adc _ | .sub _ | .sbb _ | .ana _ | .xra _ | .ora _ | .cmp _ | .adi _ | .aci _
  | .sui _ | .sbi _ | .ani _ | .xri _ | .ori _ | .cpi _ | .daa | .popPsw => [.z, .s, .p, .cy, .ac]
  | .inr _ | .dcr _ => [.z, .s, .p, .ac]
  | .dad _ | .rlc | .rrc | .ral | .rar | .stc | .cmc => [.cy]
  | .nop | .nopAlias _ | .lxi _ _ | .stax _ | .ldax _ | .shld _ | .lhld _ | .sta _ | .lda _
  | .inx _ | .dcx _ | .mvi _ _ | .cma | .mov _ _ | .hlt | .rnz | .rz | .rnc | .rc | .rpo | .rpe
  | .rp | .rm | .jnz _ | .jz _ | .jnc _ | .jc _ | .jpo _ | .jpe _ | .jp _ | .jm _ | .cnz _
  | .cz _ | .cnc _ | .cc _ | .cpo _ | .cpe _ | .cp _ | .cm _ | .pop _ | .push _ | .pushPsw
  | .jmp _ | .jmpAlias _ | .call _ | .callAlias _ | .ret | .retAlias | .xthl | .pchl | .xchg
  | .sphl | .unimplRst _ | .unimplOut | .unimplIn | .unimplDi | .unimplEi | .unimpl0xED
  | .unimpl0xFD => []

/-- SP after a push that happens or not, modulo 65536 (R230). -/
def spPushed (taken : Bool) (s : State) : Word := if taken then s.sp - 2 else s.sp

/-- SP after a pop that happens or not, modulo 65536 (R231). -/
def spPopped (taken : Bool) (s : State) : Word := if taken then s.sp + 2 else s.sp

/-- SP after a pair is written: changed only when the pair is SP (R14). -/
def spIfPair (rp : Pair) (v : Word) (s : State) : Word := if rp = .sp then v else s.sp

/-- What an instruction does to SP (R17): the change of each push and pop, and the four that set it. -/
def spAfter (i : Instr) (s : State) : Word :=
  match i with
  | .lxi rp d16 => spIfPair rp d16 s
  | .inx rp => spIfPair rp (s.sp + 1) s
  | .dcx rp => spIfPair rp (s.sp - 1) s
  | .sphl => hlWord s
  | .push _ | .pushPsw | .call _ | .callAlias _ => spPushed true s
  | .cnz _ => spPushed (!s.flags.z) s
  | .cz _ => spPushed s.flags.z s
  | .cnc _ => spPushed (!s.flags.cy) s
  | .cc _ => spPushed s.flags.cy s
  | .cpo _ => spPushed (!s.flags.p) s
  | .cpe _ => spPushed s.flags.p s
  | .cp _ => spPushed (!s.flags.s) s
  | .cm _ => spPushed s.flags.s s
  | .pop _ | .popPsw | .ret | .retAlias => spPopped true s
  | .rnz => spPopped (!s.flags.z) s
  | .rz => spPopped s.flags.z s
  | .rnc => spPopped (!s.flags.cy) s
  | .rc => spPopped s.flags.cy s
  | .rpo => spPopped (!s.flags.p) s
  | .rpe => spPopped s.flags.p s
  | .rp => spPopped (!s.flags.s) s
  | .rm => spPopped s.flags.s s
  | .nop | .nopAlias _ | .stax _ | .ldax _ | .shld _ | .lhld _ | .sta _ | .lda _ | .dad _
  | .inr _ | .dcr _ | .mvi _ _ | .rlc | .rrc | .ral | .rar | .daa | .cma | .stc | .cmc | .mov _ _
  | .hlt | .add _ | .adc _ | .sub _ | .sbb _ | .ana _ | .xra _ | .ora _ | .cmp _ | .jnz _ | .jz _
  | .jnc _ | .jc _ | .jpo _ | .jpe _ | .jp _ | .jm _ | .jmp _ | .jmpAlias _ | .adi _ | .aci _
  | .sui _ | .sbi _ | .ani _ | .xri _ | .ori _ | .cpi _ | .xthl | .pchl | .xchg | .unimplRst _
  | .unimplOut | .unimplIn | .unimplDi | .unimplEi | .unimpl0xED | .unimpl0xFD => s.sp

/-- The instruction may write PC: the jumps, calls and returns, and PCHL (R16). -/
def writesPc : Instr → Bool
  | .jmp _ | .jmpAlias _ | .jnz _ | .jz _ | .jnc _ | .jc _ | .jpo _ | .jpe _ | .jp _ | .jm _
  | .call _ | .callAlias _ | .cnz _ | .cz _ | .cnc _ | .cc _ | .cpo _ | .cpe _ | .cp _ | .cm _
  | .ret | .retAlias | .rnz | .rz | .rnc | .rc | .rpo | .rpe | .rp | .rm | .pchl => true
  | .nop | .nopAlias _ | .lxi _ _ | .stax _ | .ldax _ | .shld _ | .lhld _ | .sta _ | .lda _
  | .inx _ | .dcx _ | .dad _ | .inr _ | .dcr _ | .mvi _ _ | .rlc | .rrc | .ral | .rar | .daa
  | .cma | .stc | .cmc | .mov _ _ | .hlt | .add _ | .adc _ | .sub _ | .sbb _ | .ana _ | .xra _
  | .ora _ | .cmp _ | .pop _ | .popPsw | .push _ | .pushPsw | .adi _ | .aci _ | .sui _ | .sbi _
  | .ani _ | .xri _ | .ori _ | .cpi _ | .xthl | .xchg | .sphl | .unimplRst _ | .unimplOut
  | .unimplIn | .unimplDi | .unimplEi | .unimpl0xED | .unimpl0xFD => false

/-! ## ALU results in plain numbers -/

/-- Z, S and P are those of the result `v` (R130, R131): zero, bit 7, and one more than the exclusive
or of the bits. -/
def IsSZP (v : Byte) (f : Flags) : Prop :=
  (f.z = true ↔ v.toNat = 0) ∧ (f.s = true ↔ 128 ≤ v.toNat) ∧
    f.p = !(v.getLsbD 7 ^^ v.getLsbD 6 ^^ v.getLsbD 5 ^^ v.getLsbD 4 ^^ v.getLsbD 3 ^^ v.getLsbD 2
      ^^ v.getLsbD 1 ^^ v.getLsbD 0)

/-- `res`, CY and AC are those of the addition `a + b + cin` (R132). -/
def IsSum (a b : Byte) (cin : Bool) (res : Byte) (f : Flags) : Prop :=
  res.toNat = (a.toNat + b.toNat + cin.toNat) % 256 ∧
    (f.cy = true ↔ 255 < a.toNat + b.toNat + cin.toNat) ∧
    (f.ac = true ↔ 15 < a.toNat % 16 + b.toNat % 16 + cin.toNat)

/-- `res`, CY and AC are those of the subtraction `a - b - bin`: CY and AC are borrows (R133). -/
def IsDiff (a b : Byte) (bin : Bool) (res : Byte) (f : Flags) : Prop :=
  res.toNat = (a.toNat + 512 - b.toNat - bin.toNat) % 256 ∧
    (f.cy = true ↔ a.toNat < b.toNat + bin.toNat) ∧
    (f.ac = true ↔ a.toNat % 16 < b.toNat % 16 + bin.toNat)

/-- A byte is two decimal digits. -/
def IsBcd (v : Byte) : Prop := v.toNat % 16 ≤ 9 ∧ v.toNat / 16 ≤ 9

/-- The number two decimal digits stand for. -/
def bcdValue (v : Byte) : Nat := v.toNat / 16 * 10 + v.toNat % 16

/-! ## Sequences -/

/-- Push words, the first of the list first. -/
def pushAll (s : State) : List Word → State
  | [] => s
  | w :: rest => pushAll (push16 s w) rest

/-- Pop `n` words: the words, the first popped first, and the state after. -/
def popMany (s : State) : Nat → List Word × State
  | 0 => ([], s)
  | n + 1 => (stackTop s :: (popMany (pop16 s).2 n).1, (popMany (pop16 s).2 n).2)

/-- Write bytes, the first of the list first. -/
def writeAll (s : State) : List (Word × Byte) → State
  | [] => s
  | (x, v) :: rest => writeAll (writeMem s x v) rest

/-- The byte the last write of a list to an address left there. -/
def latestWrite (ws : List (Word × Byte)) (x : Word) : Option Byte :=
  (ws.reverse.find? fun w => w.1 == x).map Prod.snd

end Sys2Proof.Machine
end

