-- ==== Sys2Proof/Certificates/Slice0/Obligations.lean ====
section
/-! DEFINITION. The statements for the provers. Each docstring names the rule it formalises, or, where
a decision of the spec (92_eei_decisions.md D<n>) or of this model is part of it, that decision and the
log entry. `t = { s with … }` in a statement says that the fields named are the only ones that differ,
so every other register, flag, HALTED and all of memory are as before. -/

open Sys2Proof Sys2Proof.Machine

/-! ## Encoding -/

/-- Decoding what the encoder writes gives the instruction back, every operand at every value, for every
`CALL_ALIAS`. The byte values rest on D2, D3 and D4 (logs 13, 12, 1, 2). -/
def Obligations.DecodeOfEncodeIsIdentity : Prop :=
  ∀ (ca : CallAlias) (i : Instr) (rest : List Byte), i.wf = true →
    decodeWith ca (encodeWith ca i ++ rest) = .instr i rest

/-- What decodes to an instruction is that instruction's encoding and nothing else: no opcode bit is
ignored and no byte sequence has two meanings. The byte values rest on D2, D3 and D4 (logs 13, 12, 1,
2). -/
def Obligations.EncodeOfDecodeIsIdentity : Prop :=
  ∀ (ca : CallAlias) (bytes rest : List Byte) (i : Instr), decodeWith ca bytes = .instr i rest →
    i.wf = true ∧ bytes = encodeWith ca i ++ rest

/-- The 32 opcode bytes the source prints decode to the instructions it prints beside them
(95_test_vectors.md S7). -/
def Obligations.SourceOpcodesDecodeAsPrinted : Prop :=
  ∀ d8 lo hi : Byte,
    DecodesTo [0x3E, d8] (.mvi .a d8) ∧ DecodesTo [0x06, d8] (.mvi .b d8) ∧
    DecodesTo [0x16, d8] (.mvi .d d8) ∧ DecodesTo [0x4F] (.mov .c .a) ∧
    DecodesTo [0x80] (.add .b) ∧ DecodesTo [0x41] (.mov .b .c) ∧ DecodesTo [0x15] (.dcr .d) ∧
    DecodesTo [0xC2, lo, hi] (.jnz (hi ++ lo)) ∧ DecodesTo [0xF5] .pushPsw ∧
    DecodesTo [0x76] .hlt ∧
    DecodesTo [0x08] (.nopAlias .f001) ∧ DecodesTo [0x10] (.nopAlias .f010) ∧
    DecodesTo [0x18] (.nopAlias .f011) ∧ DecodesTo [0x20] (.nopAlias .f100) ∧
    DecodesTo [0x28] (.nopAlias .f101) ∧ DecodesTo [0x30] (.nopAlias .f110) ∧
    DecodesTo [0x38] (.nopAlias .f111) ∧
    DecodesTo [0xCB, lo, hi] (.jmpAlias (hi ++ lo)) ∧ DecodesTo [0xD9] .retAlias ∧
    DecodesTo [0xCD, lo, hi] (.call (hi ++ lo)) ∧
    DecodesTo [0xC7] (.unimplRst .f000) ∧ DecodesTo [0xCF] (.unimplRst .f001) ∧
    DecodesTo [0xD7] (.unimplRst .f010) ∧ DecodesTo [0xDF] (.unimplRst .f011) ∧
    DecodesTo [0xE7] (.unimplRst .f100) ∧ DecodesTo [0xEF] (.unimplRst .f101) ∧
    DecodesTo [0xF7] (.unimplRst .f110) ∧ DecodesTo [0xFF] (.unimplRst .f111) ∧
    DecodesTo [0xD3] .unimplOut ∧ DecodesTo [0xDB] .unimplIn ∧ DecodesTo [0xF3] .unimplDi ∧
    DecodesTo [0xFB] .unimplEi

/-- R68: every byte from 0x40 to 0x7F is MOV with the destination in bits 5 to 3 and the source in bits
2 to 0, except 0x76, which is HLT; all are one byte long. -/
def Obligations.MovQuadrantDecodes : Prop :=
  ∀ (op : Byte), 0x40 ≤ op.toNat → op.toNat < 0x80 →
    (op = 0x76 → DecodesTo [op] .hlt) ∧
    (op ≠ 0x76 → ∃ dst src, regIndex dst = op.toNat / 8 % 8 ∧ regIndex src = op.toNat % 8 ∧
      DecodesTo [op] (.mov dst src))

/-- R69: the bytes from 0x80 to 0xBF are eight bands of eight ALU operations, the register in bits 2 to
0; all are one byte long. -/
def Obligations.AluQuadrantDecodes : Prop :=
  ∀ (op : Byte), 0x80 ≤ op.toNat → op.toNat < 0xC0 →
    ∃ r, regIndex r = op.toNat % 8 ∧ ∃ f,
      [Instr.add, Instr.adc, Instr.sub, Instr.sbb, Instr.ana, Instr.xra, Instr.ora,
        Instr.cmp][op.toNat / 8 % 8]? = some f ∧ DecodesTo [op] (f r)

/-- Every opcode byte (R73) decodes to an instruction, whatever follows it; 232 of the 256 are canonical
(57, 64, 64 and 47 in the four quadrants), 10 are aliases and 14 are unimplemented, for every
`CALL_ALIAS`. The byte values rest on D2 and D4 (logs 13, 1, 2). -/
def Obligations.EveryOpcodeByteHasAMeaning : Prop :=
  (∀ (ca : CallAlias) (op b2 b3 : Byte) (rest : List Byte), ∃ i rest',
    decodeWith ca (op :: b2 :: b3 :: rest) = .instr i rest' ∧ i.wf = true) ∧
  ∀ ca : CallAlias,
    countKind ca .canonical 0x00 64 = 57 ∧ countKind ca .canonical 0x40 64 = 64 ∧
    countKind ca .canonical 0x80 64 = 64 ∧ countKind ca .canonical 0xC0 64 = 47 ∧
    countKind ca .canonical 0x00 256 = 232 ∧ countKind ca .aliased 0x00 256 = 10 ∧
    countKind ca .unimplemented 0x00 256 = 14

/-- Exactly the CALL-family byte that is `CALL_ALIAS` is a three-byte CALL; the other two are one byte
long and change nothing. Rests on D4 (log 1). -/
def Obligations.CallAliasIsTheOneCallByte : Prop :=
  ∀ (ca x : CallAlias) (lo hi : Byte) (rest : List Byte) (s : State),
    (x = ca →
      decodeWith ca (callAliasByte x :: lo :: hi :: rest) = .instr (.callAlias (hi ++ lo)) rest ∧
      exec (.callAlias (hi ++ lo)) s = exec (.call (hi ++ lo)) s) ∧
    (x ≠ ca → ∃ i, rowKind i = .unimplemented ∧
      decodeWith ca (callAliasByte x :: lo :: hi :: rest) = .instr i (lo :: hi :: rest) ∧
      exec i s = .next s)

/-- The first byte alone fixes an instruction's length, which is 1, 2 or 3, and a list of bytes is
rejected exactly when it ends before the instruction does. The rejection is the model's own (log 18). -/
def Obligations.FirstByteFixesTheLength : Prop :=
  (∀ (ca : CallAlias) (op b2 b3 : Byte),
    (decodeOp ca op b2 b3).length = (decodeOp ca op 0 0).length ∧
    1 ≤ (decodeOp ca op b2 b3).length ∧ (decodeOp ca op b2 b3).length ≤ 3) ∧
  ∀ (ca : CallAlias) (bytes : List Byte),
    (∃ why, decodeWith ca bytes = .rejected why) ↔
      bytes = [] ∨ ∃ op rest, bytes = op :: rest ∧ rest.length + 1 < (decodeOp ca op 0 0).length

/-! ## Fetch, step and the control states -/

/-- R90 and R91: a byte fetch reads at PC and adds 1 to PC modulo 65536; a word fetch is two byte
fetches, the low byte first, and adds 2. Nothing else changes. -/
def Obligations.FetchUnitReadsAtPc : Prop :=
  ∀ s : State,
    fetchByte s = (readMem s s.pc, { s with pc := BitVec.ofNat 16 ((s.pc.toNat + 1) % 65536) }) ∧
    fetchWord s = (readMem s (s.pc + 1) ++ readMem s s.pc,
      { s with pc := BitVec.ofNat 16 ((s.pc.toNat + 2) % 65536) })

/-- The instruction at PC is decoded from the bytes at PC, PC + 1 and PC + 2, and executes with PC at the
byte after it (R97, which the spec marks as derived). -/
def Obligations.ExecuteStartsPastTheInstruction : Prop :=
  ∀ (ca : CallAlias) (s : State),
    let i := decodeOp ca (readMem s s.pc) (readMem s (s.pc + 1)) (readMem s (s.pc + 2))
    fetchInstr ca s = (i, { s with pc := s.pc + BitVec.ofNat 16 i.length })

/-- While HALTED is 0 a step (R94) executes exactly the instruction whose bytes stand at PC, with PC past
them; while HALTED is 1 it changes nothing, which is D19 (log 3). `step` is this for the default
`CALL_ALIAS`. -/
def Obligations.StepRunsTheInstructionAtPc : Prop :=
  ∀ (ca : CallAlias) (s : State),
    (∀ i : Instr, i.wf = true → s.halted = false →
      (∀ k v, (encodeWith ca i)[k]? = some v → readMem s (s.pc + BitVec.ofNat 16 k) = v) →
      stepWith ca s = exec i { s with pc := s.pc + BitVec.ofNat 16 i.length }) ∧
    (s.halted = true → stepWith ca s = .next s) ∧
    step s = stepWith callAlias s

/-- Once halted, any number of steps changes nothing (R96). That the processor itself checks HALTED is
D19 (log 3). -/
def Obligations.HaltedRunChangesNothing : Prop :=
  ∀ (s : State), s.halted = true → ∀ k : Nat, core.run k s = .next s

/-- R260: no instruction faults or is refused, for any operand and in any state, and every step that starts
with HALTED = 0 completes with a next state, for every `CALL_ALIAS`. -/
def Obligations.EveryStepCompletes : Prop :=
  (∀ (i : Instr) (s : State), ∃ t, exec i s = .next t) ∧
  ∀ (ca : CallAlias) (s : State), s.halted = false → ∃ t, stepWith ca s = .next t

/-- The transitions of the control FSM (R95). A step leads to Halted exactly from Halted, or from Running
when the opcode at PC is 0x76, and then it advances PC by 1 and sets HALTED and does nothing else; a step
in Halted does nothing; reset leads to Running and leaves memory alone; a host write of HALTED does that
and nothing else. The step in Halted is D19 (log 3), memory over a reset is D18 (log 14). -/
def Obligations.ControlFsmTransitions : Prop :=
  ∀ (ca : CallAlias) (s : State),
    (∃ t, stepWith ca s = .next t ∧
      (t.halted = true ↔ s.halted = true ∨ readMem s s.pc = 0x76)) ∧
    (s.halted = false → readMem s s.pc = 0x76 →
      stepWith ca s = .next { s with pc := s.pc + 1, halted := true }) ∧
    (s.halted = true → stepWith ca s = .next s) ∧
    hostAct ca .reset s = .next { State.reset with mem := s.mem } ∧
    (∀ v, hostAct ca (.setStopped v) s = .next { s with halted := v })

/-- HLT sets HALTED (R21), no other instruction writes it, and no instruction clears it; reset and a host
write do; it is the `halted` output. -/
def Obligations.OnlyHltWritesHalted : Prop :=
  ∀ (i : Instr) (s : State),
    (∃ t, exec i s = .next t ∧ (i = .hlt → t.halted = true) ∧ (i ≠ .hlt → t.halted = s.halted)) ∧
    haltedOut s = s.halted ∧
    ∀ (ca : CallAlias) (v : Bool), ∃ t u, hostAct ca .reset s = .next t ∧ t.halted = false ∧
      hostAct ca (.setStopped v) s = .next u ∧ u.halted = v

/-! ## Memory -/

/-- R41: a write replaces the byte at its address and changes no other byte and no register; a host store
keeps the low 8 bits of its value. -/
def Obligations.WriteThenReadMemory : Prop :=
  ∀ (s : State) (x : Word) (v : Byte) (n : Nat) (ca : CallAlias),
    readMem (writeMem s x v) x = v ∧
    (∀ y, y ≠ x → readMem (writeMem s x v) y = readMem s y) ∧
    writeMem s x v = { s with mem := (writeMem s x v).mem } ∧
    ∃ t, hostAct ca (.storeMem x n) s = .next t ∧ (readMem t x).toNat = n % 256

/-- R42: from power-on, a read returns the most recent write to its address, or 0x00 where there was
none; the only second name a cell has is M, the cell at H:L, read and written; no other register reads a
cell. -/
def Obligations.MemoryReadsLatestWriteOrZero : Prop :=
  (∀ (s : State) (ws : List (Word × Byte)) (x : Word), s.PowerOn →
    readMem (writeAll s ws) x = (latestWrite ws x).getD 0x00) ∧
  ∀ (s : State) (x : Word) (v : Byte) (r : Reg),
    readReg s .m = readMem s (s.h ++ s.l) ∧ writeReg s .m v = writeMem s (s.h ++ s.l) v ∧
    (r ≠ .m → readReg (writeMem s x v) r = readReg s r)

/-- A 16-bit value in memory has its low byte at the lower address, the two addresses one apart modulo
65536. Rests on D15 for the wrap (log 6). -/
def Obligations.WordsAreLittleEndian : Prop :=
  ∀ (s : State) (x v : Word),
    readMem2 s x = readMem s (x + 1) ++ readMem s x ∧
    readMem2 (writeMem2 s x v) x = v ∧
    (readMem (writeMem2 s x v) x).toNat = v.toNat % 256 ∧
    (readMem (writeMem2 s x v) (x + 1)).toNat = v.toNat / 256 ∧
    SameMemBut [x, x + 1] s (writeMem2 s x v) ∧
    ∃ t, writeMem2 s x v = { s with mem := t }

/-- A push (R230, R44) writes the high byte at SP - 1 and the low byte at SP - 2, modulo 65536, and
subtracts 2 from SP; the pushed word is then the word at SP; nothing else changes. The
wrap of SP is D15 (log 6). -/
def Obligations.PushLayout : Prop :=
  (∀ (s : State) (v : Word),
    (readMem (push16 s v) (s.sp - 1)).toNat = v.toNat / 256 ∧
    (readMem (push16 s v) (s.sp - 2)).toNat = v.toNat % 256 ∧
    (push16 s v).sp.toNat = (s.sp.toNat + 65534) % 65536 ∧
    readMem2 (push16 s v) (push16 s v).sp = v ∧
    SameMemBut [s.sp - 1, s.sp - 2] s (push16 s v) ∧
    push16 s v = { s with sp := (push16 s v).sp, mem := (push16 s v).mem }) ∧
  ∀ v : Word, (readMem (push16 State.reset v) 0xFFFE).toNat = v.toNat / 256 ∧
    (readMem (push16 State.reset v) 0xFFFD).toNat = v.toNat % 256 ∧
    (push16 State.reset v).sp = 0xFFFD ∧ readMem (push16 State.reset v) 0xFFFF = 0x00

/-- A pop (R45, R231) returns the word at SP, low byte first, adds 2 to SP and changes nothing else;
pushing words and popping as many gives them back last first, with SP as it was. The bound says that no
push wraps onto a word still in use. The wrap of SP is D15 (log 6). -/
def Obligations.StackIsLastInFirstOut : Prop :=
  (∀ s : State, pop16 s = (readMem s (s.sp + 1) ++ readMem s s.sp, { s with sp := s.sp + 2 })) ∧
  ∀ (s : State) (ws : List Word), ws.length ≤ 32768 →
    (popMany (pushAll s ws) ws.length).1 = ws.reverse ∧
    (popMany (pushAll s ws) ws.length).2 = { pushAll s ws with sp := s.sp }

/-! ## The register bank -/

/-- R12: a physical register reads what was written to it, and the write changes no other register, nor
PC, SP, a flag, HALTED or memory; a write through M changes the byte at H:L and no register. -/
def Obligations.RegisterWritesAreIndependent : Prop :=
  ∀ (s : State) (r : Reg) (v : Byte),
    (r ≠ .m → readReg (writeReg s r v) r = v ∧ SameRegsBut [r] s (writeReg s r v) ∧
      (writeReg s r v).mem = s.mem) ∧
    (r = .m → readMem (writeReg s r v) (s.h ++ s.l) = v ∧
      SameMemBut [s.h ++ s.l] s (writeReg s r v) ∧ SameRegsBut [] s (writeReg s r v)) ∧
    (writeReg s r v).pc = s.pc ∧ (writeReg s r v).sp = s.sp ∧ (writeReg s r v).flags = s.flags ∧
    (writeReg s r v).halted = s.halted

/-- R13: the pairs BC, DE and HL are their two registers, high byte first, for reading and for writing;
PSW is A and the flag byte. -/
def Obligations.PairsAreTheirRegisters : Prop :=
  ∀ (s : State) (v : Word),
    readPair s .bc = s.b ++ s.c ∧ readPair s .de = s.d ++ s.e ∧ readPair s .hl = s.h ++ s.l ∧
    (∃ hi lo : Byte, hi ++ lo = v ∧ writePair s .bc v = { s with b := hi, c := lo } ∧
      writePair s .de v = { s with d := hi, e := lo } ∧
      writePair s .hl v = { s with h := hi, l := lo }) ∧
    (∃ f : Byte, f = packFlags s.flags ∧ readPsw s = s.a ++ f)

/-- The flag byte (R19) is `S Z 0 AC 0 P 0 CY`, and PSW is A and that byte; with Z and P alone set it is
68. -/
def Obligations.PswPacksFlags : Prop :=
  (∀ s : State,
    ((readPsw s).toNat = s.a.toNat * 256 + (packFlags s.flags).toNat) ∧
    (packFlags s.flags).toNat = s.flags.s.toNat * 128 + s.flags.z.toNat * 64 +
      s.flags.ac.toNat * 16 + s.flags.p.toNat * 4 + s.flags.cy.toNat) ∧
  (packFlags { s := false, z := true, ac := false, p := true, cy := false }).toNat = 68

/-- Writing PSW (R20) sets A from the high byte and the five flags from bits 7, 6, 4, 2 and 0; bits 5, 3
and 1 are discarded, so that a later pack returns 0 there. -/
def Obligations.PswUnpacksFlags : Prop :=
  ∀ (s : State) (v : Word),
    (writePsw s v).a.toNat = v.toNat / 256 ∧
    (writePsw s v).flags = Flags.mk (v.getLsbD 7) (v.getLsbD 6) (v.getLsbD 4) (v.getLsbD 2)
      (v.getLsbD 0) ∧
    writePsw s v = { s with a := (writePsw s v).a, flags := (writePsw s v).flags } ∧
    readPsw (writePsw s v) = v &&& 0xFFD5 ∧
    unpackFlags (packFlags s.flags) = s.flags

/-- Reset from any state gives PC = 0x0000, SP = 0xFFFF, every register and flag 0 and HALTED = 0 (R28,
R280), and leaves memory alone (R281, which is D18, log 14); the next fetch is from 0x0000; from power-on
it gives `State.reset`, whatever the registers were (D17, log 14). -/
def Obligations.ResetGivesTheResetState : Prop :=
  ∀ (ca : CallAlias) (s : State), ∃ t, hostAct ca .reset s = .next t ∧
    t.pc = 0x0000 ∧ t.sp = 0xFFFF ∧ t.b = 0x00 ∧ t.c = 0x00 ∧ t.d = 0x00 ∧ t.e = 0x00 ∧
    t.h = 0x00 ∧ t.l = 0x00 ∧ t.a = 0x00 ∧ (∀ f, flagOf t.flags f = false) ∧ t.halted = false ∧
    SameMem s t ∧ (fetchByte t).1 = readMem s 0x0000 ∧ (s.PowerOn → t = State.reset)

/-! ## The invariant -/

/-- The state after reset meets the invariant. The form of memory is the model's own (log 21). -/
def Obligations.ResetMeetsTheInvariant : Prop := State.reset.Inv

/-- Every step and every host action keeps memory in its canonical form, from every state that has it.
The form is the model's own (log 21). -/
def Obligations.StepsAndHostActionsKeepTheInvariant : Prop :=
  ∀ (ca : CallAlias) (s : State), s.Inv →
    (∃ t, stepWith ca s = .next t ∧ t.Inv) ∧ (∃ t, step s = .next t ∧ t.Inv) ∧
    (∀ act, ∃ t, hostAct ca act s = .next t ∧ t.Inv) ∧
    ∀ k, ∃ t, core.run k s = .next t ∧ t.Inv

/-- What each of the host's accesses between steps does (R27), and that it leaves all else alone: register
load and store, M among them; pair and PSW load and store; the flag accessors; `toggleCarry`, which
complements CY as CMC does and undoes itself (D11, log 11); PC, SP and the stopped flag; push and pop, whose
wrap of SP is D15 (log 6); the memory store of a value of any width; loading a program from address 0 on. The
form of the interface is D1; the names of the actions are the model's own (log 16). -/
def Obligations.HostAccessesReadBackWhatTheyStore : Prop :=
  ∀ (ca : CallAlias) (s : State),
    (∀ r v, r ≠ .m → ∃ t, hostAct ca (.store r v) s = .next t ∧ readReg t r = v ∧
      SameRegsBut [r] s t ∧ t.pc = s.pc ∧ t.sp = s.sp ∧ t.flags = s.flags ∧ t.halted = s.halted ∧
      t.mem = s.mem) ∧
    (∀ v, ∃ t, hostAct ca (.store .m v) s = .next t ∧ readReg t .m = v ∧
      readMem t (s.h ++ s.l) = v ∧ SameMemBut [s.h ++ s.l] s t ∧ t = { s with mem := t.mem }) ∧
    (∀ hi lo : Byte,
      hostAct ca (.storeX .bc (hi ++ lo)) s = .next { s with b := hi, c := lo } ∧
      hostAct ca (.storeX .de (hi ++ lo)) s = .next { s with d := hi, e := lo } ∧
      hostAct ca (.storeX .hl (hi ++ lo)) s = .next { s with h := hi, l := lo }) ∧
    (hostLoadX s .bc = s.b ++ s.c ∧ hostLoadX s .de = s.d ++ s.e ∧ hostLoadX s .hl = s.h ++ s.l ∧
      hostLoadX s .psw = s.a ++ packFlags s.flags) ∧
    (∀ v, ∃ t, hostAct ca (.storeX .psw v) s = .next t ∧ hostLoadX t .psw = v &&& 0xFFD5 ∧
      t = { s with a := t.a, flags := t.flags }) ∧
    (∀ f v, ∃ t, hostAct ca (.setFlag f v) s = .next t ∧ flagOf t.flags f = v ∧
      SameFlagsBut [f] s t ∧ t = { s with flags := t.flags }) ∧
    (∃ t, hostAct ca .toggleCarry s = .next t ∧ t.flags.cy = !s.flags.cy ∧
      t = { s with flags := { s.flags with cy := t.flags.cy } } ∧ exec .cmc s = .next t ∧
      hostAct ca .toggleCarry t = .next s) ∧
    (∀ v, hostAct ca (.setPC v) s = .next { s with pc := v }) ∧
    (∀ v, hostAct ca (.setSP v) s = .next { s with sp := v }) ∧
    (∀ v, hostAct ca (.setStopped v) s = .next { s with halted := v }) ∧
    (∀ v, ∃ t u, hostAct ca (.push v) s = .next t ∧ stackTop t = v ∧
      SameMemBut [s.sp - 1, s.sp - 2] s t ∧ t = { s with sp := s.sp - 2, mem := t.mem } ∧
      hostAct ca .pop t = .next u ∧ u = { t with sp := s.sp }) ∧
    (stackTop s = readMem s (s.sp + 1) ++ readMem s s.sp ∧
      hostAct ca .pop s = .next { s with sp := s.sp + 2 }) ∧
    (∀ x n, ∃ t, hostAct ca (.storeMem x n) s = .next t ∧ (readMem t x).toNat = n % 256 ∧
      SameMemBut [x] s t ∧ t = { s with mem := t.mem }) ∧
    (∀ bytes : List Byte, bytes.length ≤ 65536 →
      ∃ t, hostAct ca (.loadProgram bytes) s = .next t ∧ t = { s with mem := t.mem } ∧
        (∀ k v, bytes[k]? = some v → readMem t (BitVec.ofNat 16 k) = v) ∧
        ∀ x : Word, bytes.length ≤ x.toNat → readMem t x = readMem s x)

/-! ## What every instruction leaves alone -/

/-- Every instruction completes, and every byte outside the addresses it stores to reads as before. The
table of stores is 20_memory.md section 5; its order is D16 (log 5), untaken calls are D13 (log 12), what
STA, STAX, SHLD and XTHL store to is D14 (log 13), the wrap of its addresses is D15 (log 6). -/
def Obligations.StoresOnlyWhereTheTableSays : Prop :=
  ∀ (i : Instr) (s : State), ∃ t, exec i s = .next t ∧ SameMemBut (storesTo i s) s t

/-- Every instruction leaves every register alone that 10_state.md section 10 does not list for it. That CMP
and CPI leave A alone is D7 (log 11); that CMA writes A only, STC and CMC no register, is D11 (log 11); that
DAD writes HL, and INX and DCX their pair, is D12 (log 10); the register sets of LXI, LDA, LHLD, LDAX, XCHG,
XTHL, SPHL and PCHL, and of STA, STAX and SHLD, which have none, and that pair code 3 is SP in LXI, INX and
DCX, are D14 (log 13). -/
def Obligations.WritesOnlyItsRegisters : Prop :=
  ∀ (i : Instr) (s : State), ∃ t, exec i s = .next t ∧ SameRegsBut (regsWritten i) s t

/-- Every instruction leaves every flag alone that the flag table (R18) does not list for it. The flags of
the logic instructions, INR, DCR, DAD, INX, DCX and CMP are D5, D6, D7 and D12 (logs 10, 7, 11), those of
CMA, STC and CMC are D11 (log 11); that the instructions the source only names write no flag is D14
(log 13). -/
def Obligations.WritesOnlyItsFlags : Prop :=
  ∀ (i : Instr) (s : State), ∃ t, exec i s = .next t ∧ SameFlagsBut (flagsWritten i) s t

/-- What every instruction does to SP: pushes and taken calls subtract 2, pops and taken returns add 2,
LXI SP, INX SP, DCX SP and SPHL set it, every other leaves it alone, modulo 65536. That SPHL gives SP the
value of HL, that XTHL leaves SP alone, and that pair code 3 is SP in LXI, INX and DCX are D14 (log 13); INX
and DCX as plus and minus 1 are D12 (log 10); the wrap is D15 (log 6), untaken calls and returns are D13
(log 12). -/
def Obligations.StackPointerChanges : Prop :=
  ∀ (i : Instr) (s : State), ∃ t, exec i s = .next t ∧ t.sp = spAfter i s

/-- Only jumps, calls, returns and PCHL write PC when they execute; every other leaves it at the next
instruction (R16). That PCHL is a jump at all, and that the other instructions the source only names are
none, is D14 (log 13). -/
def Obligations.OnlyTransfersWritePc : Prop :=
  ∀ (i : Instr) (s : State), ∃ t, exec i s = .next t ∧ (writesPc i = false → t.pc = s.pc)

/-- A byte that an instruction does not read as data has no influence on what it does: changing that byte
before changes that byte after, unless the instruction stores to it, and nothing else. The table of reads
is 20_memory.md section 5; its order is D16 (log 5), untaken returns and calls are D13 (log 12), the
accesses of LDA, STA, LDAX, STAX, LHLD, SHLD and XTHL are D14 (log 13), the wrap of its addresses is D15
(log 6). -/
def Obligations.UnreadBytesHaveNoInfluence : Prop :=
  ∀ (i : Instr) (s : State) (x : Word) (v : Byte), x ∉ loadsFrom i s →
    ∃ t u, exec i s = .next t ∧ exec i (writeMem s x v) = .next u ∧
      u = { t with mem := u.mem } ∧ (∀ y, y ≠ x → readMem u y = readMem t y) ∧
      (x ∈ storesTo i s → readMem u x = readMem t x) ∧ (x ∉ storesTo i s → readMem u x = v)

/-! ## Data transfer -/

/-- R111, MOV d,s: encoding `01 ddd sss`; the destination takes the source as it was before, M being the
byte at the old HL; nothing else changes, and no flag. -/
def Obligations.MovCopies : Prop :=
  ∀ (dst src : Reg) (s : State), ¬ (dst = .m ∧ src = .m) →
    DecodesTo [byteOf (0x40 + 8 * regIndex dst + regIndex src)] (.mov dst src) ∧
    ∃ t, exec (.mov dst src) s = .next t ∧
      (dst ≠ .m → readReg t dst = readReg s src ∧ SameRegsBut [dst] s t ∧ SameMem s t) ∧
      (dst = .m → readMem t (hlWord s) = readReg s src ∧ SameMemBut [hlWord s] s t ∧
        SameRegsBut [] s t) ∧
      t.pc = s.pc ∧ t.sp = s.sp ∧ t.flags = s.flags ∧ t.halted = s.halted

/-- R112, MVI d,d8: encoding `00 ddd 110`, two bytes; the register, or the byte at HL, takes the immediate;
nothing else changes, and no flag. -/
def Obligations.MviLoadsTheImmediate : Prop :=
  ∀ (dst : Reg) (d8 : Byte) (s : State),
    DecodesTo [byteOf (0x06 + 8 * regIndex dst), d8] (.mvi dst d8) ∧
    ∃ t, exec (.mvi dst d8) s = .next t ∧
      (dst ≠ .m → readReg t dst = d8 ∧ SameRegsBut [dst] s t ∧ SameMem s t) ∧
      (dst = .m → readMem t (hlWord s) = d8 ∧ SameMemBut [hlWord s] s t ∧ SameRegsBut [] s t) ∧
      t.pc = s.pc ∧ t.sp = s.sp ∧ t.flags = s.flags ∧ t.halted = s.halted

/-- LXI rp,d16 (R113): byte 3 to the high register, byte 2 to the low one; code 3 is SP (D14, log 13). The
opcode bytes are D2 (log 13). -/
def Obligations.LxiLoadsThePair : Prop :=
  ∀ (rp : Pair) (b2 b3 : Byte) (s : State),
    DecodesTo [byteOf (0x01 + 16 * pairIndex rp), b2, b3] (.lxi rp (b3 ++ b2)) ∧
    exec (.lxi rp (b3 ++ b2)) s = .next (match rp with
      | .bc => { s with b := b3, c := b2 }
      | .de => { s with d := b3, e := b2 }
      | .hl => { s with h := b3, l := b2 }
      | .sp => { s with sp := b3 ++ b2 })

/-- LDA, STA, LDAX and STAX (R114, R115, R118, R119) move one byte between A and the direct or the paired
address. Their meanings and opcode bytes are D14 and D2 (log 13). -/
def Obligations.AccumulatorLoadsAndStores : Prop :=
  ∀ (lo hi : Byte) (s : State),
    DecodesTo [0x3A, lo, hi] (.lda (hi ++ lo)) ∧ DecodesTo [0x32, lo, hi] (.sta (hi ++ lo)) ∧
    DecodesTo [0x0A] (.ldax .bc) ∧ DecodesTo [0x1A] (.ldax .de) ∧
    DecodesTo [0x02] (.stax .bc) ∧ DecodesTo [0x12] (.stax .de) ∧
    exec (.lda (hi ++ lo)) s = .next { s with a := readMem s (hi ++ lo) } ∧
    exec (.ldax .bc) s = .next { s with a := readMem s (s.b ++ s.c) } ∧
    exec (.ldax .de) s = .next { s with a := readMem s (s.d ++ s.e) } ∧
    ∀ (i : Instr) (x : Word), (i = .sta (hi ++ lo) ∧ x = hi ++ lo ∨ i = .stax .bc ∧ x = s.b ++ s.c ∨
        i = .stax .de ∧ x = s.d ++ s.e) →
      ∃ t, exec i s = .next t ∧ readMem t x = s.a ∧ SameMemBut [x] s t ∧ t = { s with mem := t.mem }

/-- LHLD and SHLD (R116, R117) move L at the address and H at the next one, modulo 65536. Their meanings,
opcode bytes and the wrap are D14, D2 and D15 (logs 13, 6). -/
def Obligations.LhldShldMoveHL : Prop :=
  ∀ (lo hi : Byte) (s : State),
    DecodesTo [0x2A, lo, hi] (.lhld (hi ++ lo)) ∧ DecodesTo [0x22, lo, hi] (.shld (hi ++ lo)) ∧
    exec (.lhld (hi ++ lo)) s =
      .next { s with l := readMem s (hi ++ lo), h := readMem s (hi ++ lo + 1) } ∧
    ∃ t, exec (.shld (hi ++ lo)) s = .next t ∧ readMem t (hi ++ lo) = s.l ∧
      readMem t (hi ++ lo + 1) = s.h ∧ SameMemBut [hi ++ lo, hi ++ lo + 1] s t ∧
      t = { s with mem := t.mem }

/-- XCHG (R120) swaps DE and HL; two in a row restore the state. Its meaning and opcode byte are D14 and D2
(log 13). -/
def Obligations.XchgSwapsDeAndHl : Prop :=
  DecodesTo [0xEB] .xchg ∧ ∀ s : State, ∃ t, exec .xchg s = .next t ∧
    readPair t .hl = readPair s .de ∧ readPair t .de = readPair s .hl ∧
    t = { s with d := t.d, e := t.e, h := t.h, l := t.l } ∧ exec .xchg t = .next s

/-! ## Arithmetic -/

/-- R135, ADD s: encoding `10 000 sss`; A takes the sum, and all five flags follow it; nothing else
changes. -/
def Obligations.AddRegister : Prop :=
  ∀ (r : Reg) (s : State), DecodesTo [byteOf (0x80 + regIndex r)] (.add r) ∧
    ∃ t, exec (.add r) s = .next t ∧ IsSum s.a (readReg s r) false t.a t.flags ∧
      IsSZP t.a t.flags ∧ t = { s with a := t.a, flags := t.flags }

/-- ADC s, ADI d8 and ACI d8 (R136, R139, R140): the same sum, with the carry in for ADC and ACI. The carry
in is D8 (log 11); the bytes 0xC6 and 0xCE are D2 (log 13). -/
def Obligations.AddWithCarryAndImmediate : Prop :=
  ∀ (r : Reg) (d8 : Byte) (s : State),
    DecodesTo [byteOf (0x88 + regIndex r)] (.adc r) ∧ DecodesTo [0xC6, d8] (.adi d8) ∧
    DecodesTo [0xCE, d8] (.aci d8) ∧
    (∃ t, exec (.adc r) s = .next t ∧ IsSum s.a (readReg s r) s.flags.cy t.a t.flags ∧
      IsSZP t.a t.flags ∧ t = { s with a := t.a, flags := t.flags }) ∧
    (∃ t, exec (.adi d8) s = .next t ∧ IsSum s.a d8 false t.a t.flags ∧
      IsSZP t.a t.flags ∧ t = { s with a := t.a, flags := t.flags }) ∧
    (∃ t, exec (.aci d8) s = .next t ∧ IsSum s.a d8 s.flags.cy t.a t.flags ∧
      IsSZP t.a t.flags ∧ t = { s with a := t.a, flags := t.flags })

/-- SUB s (R137): encoding `10 010 sss`; A takes the difference; CY and AC are borrows, AC by D23 (log 8);
nothing else changes. -/
def Obligations.SubRegister : Prop :=
  ∀ (r : Reg) (s : State), DecodesTo [byteOf (0x90 + regIndex r)] (.sub r) ∧
    ∃ t, exec (.sub r) s = .next t ∧ IsDiff s.a (readReg s r) false t.a t.flags ∧
      IsSZP t.a t.flags ∧ t = { s with a := t.a, flags := t.flags }

/-- SBB s, SUI d8 and SBI d8 (R138, R141, R142): the same difference, with the borrow in for SBB and SBI.
The borrow in is D8 (log 11), AC as a borrow is D23 (log 8); the bytes 0xD6 and 0xDE are D2 (log 13). -/
def Obligations.SubWithBorrowAndImmediate : Prop :=
  ∀ (r : Reg) (d8 : Byte) (s : State),
    DecodesTo [byteOf (0x98 + regIndex r)] (.sbb r) ∧ DecodesTo [0xD6, d8] (.sui d8) ∧
    DecodesTo [0xDE, d8] (.sbi d8) ∧
    (∃ t, exec (.sbb r) s = .next t ∧ IsDiff s.a (readReg s r) s.flags.cy t.a t.flags ∧
      IsSZP t.a t.flags ∧ t = { s with a := t.a, flags := t.flags }) ∧
    (∃ t, exec (.sui d8) s = .next t ∧ IsDiff s.a d8 false t.a t.flags ∧
      IsSZP t.a t.flags ∧ t = { s with a := t.a, flags := t.flags }) ∧
    (∃ t, exec (.sbi d8) s = .next t ∧ IsDiff s.a d8 s.flags.cy t.a t.flags ∧
      IsSZP t.a t.flags ∧ t = { s with a := t.a, flags := t.flags })

/-- CMP s and CPI d8 (R164, R168): the flags of the subtraction, in unsigned numbers Z for equal and CY for
less, and A not written, which is D7 (log 11); AC as a borrow is D23 (log 8); the byte 0xFE is D2
(log 13). -/
def Obligations.CompareWritesFlagsOnly : Prop :=
  ∀ (r : Reg) (d8 : Byte) (s : State),
    DecodesTo [byteOf (0xB8 + regIndex r)] (.cmp r) ∧ DecodesTo [0xFE, d8] (.cpi d8) ∧
    ∀ i v, (i = .cmp r ∧ v = readReg s r ∨ i = .cpi d8 ∧ v = d8) →
      ∃ t, exec i s = .next t ∧ t = { s with flags := t.flags } ∧
        (∃ res, IsDiff s.a v false res t.flags ∧ IsSZP res t.flags) ∧
        (t.flags.z = true ↔ s.a = v) ∧ (t.flags.cy = true ↔ s.a.toNat < v.toNat)

/-- INR d and DCR d (R143, R144): the register, or the byte at HL, plus or minus 1 modulo 256; Z, S, P and
AC follow the result; AC is 1 exactly from a low nibble 0xF or 0x0; CY is kept, which is D5 (log 10); AC
of DCR as a borrow is D23 (log 8); the opcode bytes are D2 (log 13). -/
def Obligations.IncrementAndDecrement : Prop :=
  ∀ (r : Reg) (s : State),
    DecodesTo [byteOf (0x04 + 8 * regIndex r)] (.inr r) ∧
    DecodesTo [byteOf (0x05 + 8 * regIndex r)] (.dcr r) ∧
    ∀ i delta nibble, (i = .inr r ∧ delta = 1 ∧ nibble = 15 ∨ i = .dcr r ∧ delta = 255 ∧ nibble = 0) →
      ∃ t res, exec i s = .next t ∧
        BitVec.toNat res = ((readReg s r).toNat + delta) % 256 ∧ IsSZP res t.flags ∧
        (t.flags.ac = true ↔ (readReg s r).toNat % 16 = nibble) ∧ t.flags.cy = s.flags.cy ∧
        (r ≠ .m → readReg t r = res ∧ SameRegsBut [r] s t ∧ SameMem s t) ∧
        (r = .m → readMem t (hlWord s) = res ∧ SameMemBut [hlWord s] s t ∧ SameRegsBut [] s t) ∧
        t.pc = s.pc ∧ t.sp = s.sp ∧ t.halted = s.halted

/-- INX rp and DCX rp (R145, R146): the pair plus or minus 1 modulo 65536, and no flag, which is D12
(log 10); code 3 is SP, which is D14 (log 13); the opcode bytes are D2 (log 13). -/
def Obligations.PairIncrementAndDecrement : Prop :=
  ∀ (rp : Pair) (s : State),
    DecodesTo [byteOf (0x03 + 16 * pairIndex rp)] (.inx rp) ∧
    DecodesTo [byteOf (0x0B + 16 * pairIndex rp)] (.dcx rp) ∧
    ∀ i delta, (i = .inx rp ∧ delta = 1 ∨ i = .dcx rp ∧ delta = 65535) →
      ∃ t, exec i s = .next t ∧
        (readPair t rp).toNat = ((readPair s rp).toNat + delta) % 65536 ∧
        SameRegsBut (pairRegs rp) s t ∧ (rp ≠ .sp → t.sp = s.sp) ∧ SameMem s t ∧
        t.pc = s.pc ∧ t.flags = s.flags ∧ t.halted = s.halted

/-- DAD rp (R147): HL takes HL plus the pair modulo 65536, CY the carry out of bit 15, and nothing else
changes, which is D12 (log 10); code 3 is SP, which is D14 (log 13); the opcode bytes are D2 (log 13). -/
def Obligations.DoubleAdd : Prop :=
  ∀ (rp : Pair) (s : State), DecodesTo [byteOf (0x09 + 16 * pairIndex rp)] (.dad rp) ∧
    ∃ t, exec (.dad rp) s = .next t ∧
      (readPair t .hl).toNat = ((readPair s .hl).toNat + (readPair s rp).toNat) % 65536 ∧
      (t.flags.cy = true ↔ 65535 < (readPair s .hl).toNat + (readPair s rp).toNat) ∧
      t = { s with h := t.h, l := t.l, flags := { s.flags with cy := t.flags.cy } }

/-- DAA (R148) by its algorithm, which is D10 (log 9): the correction, the sum, and the flags; the opcode
byte is D2 (log 13). -/
def Obligations.DecimalAdjust : Prop :=
  DecodesTo [0x27] .daa ∧ ∀ s : State,
    ∃ (t : State) (low high : Bool), exec .daa s = .next t ∧
      (low = true ↔ s.flags.ac = true ∨ 9 < s.a.toNat % 16) ∧
      (high = true ↔ s.flags.cy = true ∨ 9 < s.a.toNat / 16 ∨
        s.a.toNat / 16 = 9 ∧ 9 < s.a.toNat % 16) ∧
      t.a.toNat = (s.a.toNat + 6 * low.toNat + 96 * high.toNat) % 256 ∧
      (t.flags.ac = true ↔ 15 < s.a.toNat % 16 + 6 * low.toNat) ∧
      (t.flags.cy = true ↔ s.flags.cy = true ∨ high = true) ∧
      IsSZP t.a t.flags ∧ t = { s with a := t.a, flags := t.flags }

/-- Adding two packed BCD bytes, with or without carry, and then DAA gives the packed BCD sum in A and its
hundreds in CY. Rests on D8 and D10 (logs 11, 9); it is the reason D10 gives for its algorithm. -/
def Obligations.DecimalAdjustGivesTheBcdSum : Prop :=
  ∀ (s : State) (i : Instr) (y : Byte) (cin : Bool),
    (∃ r, i = .add r ∧ y = readReg s r ∧ cin = false) ∨
    (∃ r, i = .adc r ∧ y = readReg s r ∧ cin = s.flags.cy) ∨
    (i = .adi y ∧ cin = false) ∨ (i = .aci y ∧ cin = s.flags.cy) →
    IsBcd s.a → IsBcd y →
    ∃ t u, exec i s = .next t ∧ exec .daa t = .next u ∧ IsBcd u.a ∧
      bcdValue u.a + 100 * u.flags.cy.toNat = bcdValue s.a + bcdValue y + cin.toNat

/-! ## Logic, rotates, carry -/

/-- ANA, XRA, ORA r and ANI, XRI, ORI d8 (R161 to R163, R165 to R167): each bit of A by itself; Z, S and P
follow the result; CY and AC are cleared, which is D6 (log 7); the immediate opcodes are D2 (log 13). -/
def Obligations.LogicOperations : Prop :=
  ∀ (r : Reg) (d8 : Byte) (s : State),
    DecodesTo [byteOf (0xA0 + regIndex r)] (.ana r) ∧ DecodesTo [byteOf (0xA8 + regIndex r)] (.xra r) ∧
    DecodesTo [byteOf (0xB0 + regIndex r)] (.ora r) ∧ DecodesTo [0xE6, d8] (.ani d8) ∧
    DecodesTo [0xEE, d8] (.xri d8) ∧ DecodesTo [0xF6, d8] (.ori d8) ∧
    ∀ i v f, (i = .ana r ∧ v = readReg s r ∧ f = Bool.and ∨ i = .ani d8 ∧ v = d8 ∧ f = Bool.and ∨
        i = .xra r ∧ v = readReg s r ∧ f = Bool.xor ∨ i = .xri d8 ∧ v = d8 ∧ f = Bool.xor ∨
        i = .ora r ∧ v = readReg s r ∧ f = Bool.or ∨ i = .ori d8 ∧ v = d8 ∧ f = Bool.or) →
      ∃ t, exec i s = .next t ∧ (∀ k, k < 8 → t.a.getLsbD k = f (s.a.getLsbD k) (v.getLsbD k)) ∧
        IsSZP t.a t.flags ∧ t.flags.cy = false ∧ t.flags.ac = false ∧
        t = { s with a := t.a, flags := t.flags }

/-- RLC, RRC, RAL, RAR (R169 to R172): A moves by one place, CY takes the bit that leaves, and the vacated
place takes that bit or the old CY, which is D9 (log 11). CMA, CMC, STC (R173 to R175) are D11 (log 11). No
other flag is written; the opcode bytes are D2 (log 13). -/
def Obligations.RotatesAndCarry : Prop :=
  DecodesTo [0x07] .rlc ∧ DecodesTo [0x0F] .rrc ∧ DecodesTo [0x17] .ral ∧ DecodesTo [0x1F] .rar ∧
  DecodesTo [0x2F] .cma ∧ DecodesTo [0x3F] .cmc ∧ DecodesTo [0x37] .stc ∧
  ∀ s : State,
    (∃ t, exec .rlc s = .next t ∧ t.a.toNat = s.a.toNat * 2 % 256 + s.a.toNat / 128 ∧
      (t.flags.cy = true ↔ 128 ≤ s.a.toNat) ∧
      t = { s with a := t.a, flags := { s.flags with cy := t.flags.cy } }) ∧
    (∃ t, exec .rrc s = .next t ∧ t.a.toNat = s.a.toNat / 2 + 128 * (s.a.toNat % 2) ∧
      (t.flags.cy = true ↔ s.a.toNat % 2 = 1) ∧
      t = { s with a := t.a, flags := { s.flags with cy := t.flags.cy } }) ∧
    (∃ t, exec .ral s = .next t ∧ t.a.toNat = s.a.toNat * 2 % 256 + s.flags.cy.toNat ∧
      (t.flags.cy = true ↔ 128 ≤ s.a.toNat) ∧
      t = { s with a := t.a, flags := { s.flags with cy := t.flags.cy } }) ∧
    (∃ t, exec .rar s = .next t ∧ t.a.toNat = s.a.toNat / 2 + 128 * s.flags.cy.toNat ∧
      (t.flags.cy = true ↔ s.a.toNat % 2 = 1) ∧
      t = { s with a := t.a, flags := { s.flags with cy := t.flags.cy } }) ∧
    (∃ t, exec .cma s = .next t ∧ t.a.toNat = 255 - s.a.toNat ∧ t = { s with a := t.a } ∧
      exec .cma t = .next s) ∧
    (∃ t, exec .cmc s = .next t ∧ t.flags.cy = !s.flags.cy ∧
      t = { s with flags := { s.flags with cy := t.flags.cy } } ∧ exec .cmc t = .next s) ∧
    exec .stc s = .next { s with flags := { s.flags with cy := true } }

/-- Self-modifying code: an STA into the byte after itself is seen by the very next fetch, with no fence
(R54, which the spec marks as derived; D22, log 17). STA is D14 (log 13). -/
def Obligations.StoreIntoTheNextInstructionIsFetched : Prop :=
  ∀ (ca : CallAlias) (s : State) (i : Instr), s.halted = false → i.wf = true →
    readMem s s.pc = 0x32 → (readMem s (s.pc + 1)).toNat = (s.pc + 3).toNat % 256 →
    (readMem s (s.pc + 2)).toNat = (s.pc + 3).toNat / 256 → encodeWith ca i = [s.a] →
    ∃ t, stepWith ca s = .next t ∧ readMem t (s.pc + 3) = s.a ∧ SameMemBut [s.pc + 3] s t ∧
      t = { s with pc := s.pc + 3, mem := t.mem } ∧
      stepWith ca t = exec i { t with pc := s.pc + 4 }

/-! ## Control transfer -/

/-- JMP, its alias 0xCB, the eight conditional jumps and PCHL (R191 to R199, R218): PC takes the target, or
stays at the next instruction; nothing else changes. The condition values are D3 (log 12), PCHL is D14
(log 13), the opcode bytes are D2 (log 13). -/
def Obligations.JumpsSetPc : Prop :=
  (∀ lo hi : Byte,
    DecodesTo [0xC3, lo, hi] (.jmp (hi ++ lo)) ∧ DecodesTo [0xCB, lo, hi] (.jmpAlias (hi ++ lo)) ∧
    DecodesTo [0xC2, lo, hi] (.jnz (hi ++ lo)) ∧ DecodesTo [0xCA, lo, hi] (.jz (hi ++ lo)) ∧
    DecodesTo [0xD2, lo, hi] (.jnc (hi ++ lo)) ∧ DecodesTo [0xDA, lo, hi] (.jc (hi ++ lo)) ∧
    DecodesTo [0xE2, lo, hi] (.jpo (hi ++ lo)) ∧ DecodesTo [0xEA, lo, hi] (.jpe (hi ++ lo)) ∧
    DecodesTo [0xF2, lo, hi] (.jp (hi ++ lo)) ∧ DecodesTo [0xFA, lo, hi] (.jm (hi ++ lo)) ∧
    DecodesTo [0xE9] .pchl) ∧
  ∀ (addr : Word) (s : State),
    exec (.jmp addr) s = .next { s with pc := addr } ∧
    exec (.jmpAlias addr) s = .next { s with pc := addr } ∧
    exec (.jnz addr) s = .next { s with pc := if s.flags.z = false then addr else s.pc } ∧
    exec (.jz addr) s = .next { s with pc := if s.flags.z = true then addr else s.pc } ∧
    exec (.jnc addr) s = .next { s with pc := if s.flags.cy = false then addr else s.pc } ∧
    exec (.jc addr) s = .next { s with pc := if s.flags.cy = true then addr else s.pc } ∧
    exec (.jpo addr) s = .next { s with pc := if s.flags.p = false then addr else s.pc } ∧
    exec (.jpe addr) s = .next { s with pc := if s.flags.p = true then addr else s.pc } ∧
    exec (.jp addr) s = .next { s with pc := if s.flags.s = false then addr else s.pc } ∧
    exec (.jm addr) s = .next { s with pc := if s.flags.s = true then addr else s.pc } ∧
    exec .pchl s = .next { s with pc := s.h ++ s.l }

/-- CALL, its alias and the eight conditional calls (R200 to R208): taken, the return address is pushed and
PC takes the target; not taken, nothing changes, which is D13 (log 12). The condition values are D3 (log
12), the alias byte is D4 (log 1), the other opcode bytes but 0xCD are D2 (log 13),
the wrap of SP is D15 (log 6). -/
def Obligations.CallsPushTheReturnAddress : Prop :=
  (∀ lo hi : Byte,
    DecodesTo [0xCD, lo, hi] (.call (hi ++ lo)) ∧
    DecodesTo [0xC4, lo, hi] (.cnz (hi ++ lo)) ∧ DecodesTo [0xCC, lo, hi] (.cz (hi ++ lo)) ∧
    DecodesTo [0xD4, lo, hi] (.cnc (hi ++ lo)) ∧ DecodesTo [0xDC, lo, hi] (.cc (hi ++ lo)) ∧
    DecodesTo [0xE4, lo, hi] (.cpo (hi ++ lo)) ∧ DecodesTo [0xEC, lo, hi] (.cpe (hi ++ lo)) ∧
    DecodesTo [0xF4, lo, hi] (.cp (hi ++ lo)) ∧ DecodesTo [0xFC, lo, hi] (.cm (hi ++ lo))) ∧
  ∀ (addr : Word) (s : State) (i : Instr) (taken : Bool),
    (i, taken) ∈ [(.call addr, true), (.callAlias addr, true), (.cnz addr, !s.flags.z),
      (.cz addr, s.flags.z), (.cnc addr, !s.flags.cy), (.cc addr, s.flags.cy),
      (.cpo addr, !s.flags.p), (.cpe addr, s.flags.p), (.cp addr, !s.flags.s),
      (.cm addr, s.flags.s)] →
    (taken = true → ∃ t, exec i s = .next t ∧ t.pc = addr ∧
      (readMem t (s.sp - 1)).toNat = s.pc.toNat / 256 ∧
      (readMem t (s.sp - 2)).toNat = s.pc.toNat % 256 ∧ SameMemBut [s.sp - 1, s.sp - 2] s t ∧
      t = { s with pc := addr, sp := s.sp - 2, mem := t.mem }) ∧
    (taken = false → exec i s = .next s)

/-- RET, its alias 0xD9 and the eight conditional returns (R209 to R217): taken, PC takes the word at SP and
SP adds 2; not taken, nothing changes, which is D13 (log 12). The condition values are D3 (log 12), the
opcode bytes but 0xD9 are D2 (log 13), the wrap of SP is D15 (log 6). -/
def Obligations.ReturnsPopPc : Prop :=
  (DecodesTo [0xC9] .ret ∧ DecodesTo [0xD9] .retAlias ∧ DecodesTo [0xC0] .rnz ∧
    DecodesTo [0xC8] .rz ∧ DecodesTo [0xD0] .rnc ∧ DecodesTo [0xD8] .rc ∧ DecodesTo [0xE0] .rpo ∧
    DecodesTo [0xE8] .rpe ∧ DecodesTo [0xF0] .rp ∧ DecodesTo [0xF8] .rm) ∧
  ∀ (s : State) (i : Instr) (taken : Bool),
    (i, taken) ∈ [(.ret, true), (.retAlias, true), (.rnz, !s.flags.z), (.rz, s.flags.z),
      (.rnc, !s.flags.cy), (.rc, s.flags.cy), (.rpo, !s.flags.p), (.rpe, s.flags.p),
      (.rp, !s.flags.s), (.rm, s.flags.s)] →
    (taken = true → exec i s =
      .next { s with pc := readMem s (s.sp + 1) ++ readMem s s.sp, sp := s.sp + 2 }) ∧
    (taken = false → exec i s = .next s)

/-- A return at the target of a call comes back to the instruction after the call with SP as it was; only
the two bytes below the old SP differ (R220, which the spec marks as derived). The wrap of SP is D15
(log 6). -/
def Obligations.ReturnComesBackFromCall : Prop :=
  ∀ (addr : Word) (s : State), ∃ t u, exec (.call addr) s = .next t ∧ t.pc = addr ∧
    exec .ret t = .next u ∧ u = { s with mem := u.mem } ∧ SameMemBut [s.sp - 1, s.sp - 2] s u

/-! ## Stack and machine control -/

/-- PUSH rp, PUSH PSW, POP rp, POP PSW (R232 to R235): the high register at the higher address; PSW packs
and unpacks the flags; nothing else changes. The opcode bytes but 0xF5 are D2 (log 13), the
wrap of SP is D15 (log 6). -/
def Obligations.PushAndPop : Prop :=
  (DecodesTo [0xC5] (.push .bc) ∧ DecodesTo [0xD5] (.push .de) ∧ DecodesTo [0xE5] (.push .hl) ∧
    DecodesTo [0xF5] .pushPsw ∧ DecodesTo [0xC1] (.pop .bc) ∧ DecodesTo [0xD1] (.pop .de) ∧
    DecodesTo [0xE1] (.pop .hl) ∧ DecodesTo [0xF1] .popPsw) ∧
  ∀ s : State,
    (∀ i hi lo, (i, hi, lo) ∈ [(.push .bc, s.b, s.c), (.push .de, s.d, s.e), (.push .hl, s.h, s.l),
        (.pushPsw, s.a, packFlags s.flags)] →
      ∃ t, exec i s = .next t ∧ readMem t (s.sp - 1) = hi ∧ readMem t (s.sp - 2) = lo ∧
        SameMemBut [s.sp - 1, s.sp - 2] s t ∧ t = { s with sp := s.sp - 2, mem := t.mem }) ∧
    exec (.pop .bc) s =
      .next { s with c := readMem s s.sp, b := readMem s (s.sp + 1), sp := s.sp + 2 } ∧
    exec (.pop .de) s =
      .next { s with e := readMem s s.sp, d := readMem s (s.sp + 1), sp := s.sp + 2 } ∧
    exec (.pop .hl) s =
      .next { s with l := readMem s s.sp, h := readMem s (s.sp + 1), sp := s.sp + 2 } ∧
    exec .popPsw s = .next { s with
      a := readMem s (s.sp + 1)
      flags := unpackFlags (readMem s s.sp)
      sp := s.sp + 2 }

/-- XTHL and SPHL (R236, R237): L and H change places with the bytes at SP and SP + 1, for every SP, and two
XTHL restore every byte and register; SP takes HL. Their meanings are D14 and D16 (logs 13, 5), the opcode
bytes D2 (log 13), the wrap of SP + 1 is D15 (log 6). -/
def Obligations.ExchangeWithTheStackTop : Prop :=
  DecodesTo [0xE3] .xthl ∧ DecodesTo [0xF9] .sphl ∧ ∀ s : State,
    (∃ t, exec .xthl s = .next t ∧ t.l = readMem s s.sp ∧ t.h = readMem s (s.sp + 1) ∧
      readMem t s.sp = s.l ∧ readMem t (s.sp + 1) = s.h ∧ SameMemBut [s.sp, s.sp + 1] s t ∧
      t = { s with h := t.h, l := t.l, mem := t.mem } ∧
      ∃ u, exec .xthl t = .next u ∧ u = { s with mem := u.mem } ∧ SameMem s u) ∧
    exec .sphl s = .next { s with sp := s.h ++ s.l }

/-- NOP, its seven alias bytes, HLT and the unimplemented opcodes (R238 to R245): NOP and every unimplemented
byte, one byte long each, change nothing after their fetch; HLT sets HALTED and nothing else. The byte 0x00
is D2 (log 13). The two CALL-family bytes are D4 (log 1). -/
def Obligations.NopHltAndUnimplemented : Prop :=
  (∀ n : Fin 8, ∃ xxx, bits3 xxx = BitVec.ofFin n ∧
    DecodesTo [byteOf (0xC7 + 8 * n.val)] (.unimplRst xxx) ∧
    (n ≠ 0 → DecodesTo [byteOf (8 * n.val)] (.nopAlias xxx))) ∧
  DecodesTo [0x00] .nop ∧ DecodesTo [0x76] .hlt ∧ DecodesTo [0xD3] .unimplOut ∧
  DecodesTo [0xDB] .unimplIn ∧ DecodesTo [0xF3] .unimplDi ∧ DecodesTo [0xFB] .unimplEi ∧
  ∀ (s : State) (xxx : Field3),
    exec .hlt s = .next { s with halted := true } ∧ exec .nop s = .next s ∧
    exec (.nopAlias xxx) s = .next s ∧ exec (.unimplRst xxx) s = .next s ∧
    exec .unimplOut s = .next s ∧ exec .unimplIn s = .next s ∧ exec .unimplDi s = .next s ∧
    exec .unimplEi s = .next s ∧ exec .unimpl0xED s = .next s ∧ exec .unimpl0xFD s = .next s
end

