-- ==== Sys2Proof/Laws/Alu.lean ====
section
/-! SUPPORT. What the ALU functions compute, in plain numbers: one lemma per function. -/

namespace Sys2Proof.Machine

/-- Parity as the exclusive or of the bits (R131's second form). -/
theorem parity_eq_xor (v : Byte) :
    parity v = !(v.getLsbD 7 ^^ v.getLsbD 6 ^^ v.getLsbD 5 ^^ v.getLsbD 4 ^^ v.getLsbD 3
      ^^ v.getLsbD 2 ^^ v.getLsbD 1 ^^ v.getLsbD 0) := by
  unfold parity oneBits
  generalize v.getLsbD 0 = b0
  generalize v.getLsbD 1 = b1
  generalize v.getLsbD 2 = b2
  generalize v.getLsbD 3 = b3
  generalize v.getLsbD 4 = b4
  generalize v.getLsbD 5 = b5
  generalize v.getLsbD 6 = b6
  generalize v.getLsbD 7 = b7
  revert b0 b1 b2 b3 b4 b5 b6 b7
  decide

/-- Bit 7 of a byte says that it is at least 128. -/
theorem getLsbD_seven (v : Byte) : v.getLsbD 7 = true ↔ 128 ≤ v.toNat := by
  have h := v.isLt
  rw [BitVec.getLsbD, Nat.testBit_eq_decide_div_mod_eq]
  simp
  omega

/-- Bit 0 of a byte says that it is odd. -/
theorem getLsbD_zero (v : Byte) : v.getLsbD 0 = true ↔ v.toNat % 2 = 1 := by
  rw [BitVec.getLsbD, Nat.testBit_eq_decide_div_mod_eq]
  simp

/-- `flagsOf` gives Z, S and P of its result (R130). -/
theorem flagsOf_szp (v : Byte) (cy ac : Bool) : IsSZP v (flagsOf v cy ac) := by
  refine ⟨?_, getLsbD_seven v, parity_eq_xor v⟩
  simp only [flagsOf, beq_iff_eq]
  exact ⟨fun h => by rw [h]; rfl, fun h => BitVec.eq_of_toNat_eq h⟩

/-- The flags of an ALU result are its carry, its auxiliary carry and SZP of it. -/
@[simp] theorem aluFlags_cy (o : AluOut) : o.flags.cy = o.cy := rfl
@[simp] theorem aluFlags_ac (o : AluOut) : o.flags.ac = o.ac := rfl

theorem aluFlags_szp (o : AluOut) : IsSZP o.res o.flags := flagsOf_szp _ _ _

/-- IsSZP reads only Z, S and P. -/
theorem szp_congr {v : Byte} {f g : Flags} (hz : g.z = f.z) (hs : g.s = f.s) (hp : g.p = f.p)
    (h : IsSZP v f) : IsSZP v g := by
  unfold IsSZP at *
  rwa [hz, hs, hp]

/-- `Add8` (R132). -/
theorem add8_sum (a b : Byte) (cin : Bool) :
    IsSum a b cin (add8 a b cin).res (add8 a b cin).flags := by
  refine ⟨?_, ?_, ?_⟩ <;> simp [add8]

/-- `Sub8` (R133). -/
theorem sub8_diff (a b : Byte) (bin : Bool) :
    IsDiff a b bin (sub8 a b bin).res (sub8 a b bin).flags := by
  have ha := a.isLt
  have hb := b.isLt
  have hc : bin.toNat ≤ 1 := Bool.toNat_le bin
  refine ⟨?_, ?_, ?_⟩
  · simp only [sub8, BitVec.toNat_ofInt]
    omega
  · simp only [sub8, aluFlags_cy, decide_eq_true_eq]
    omega
  · simp only [sub8, aluFlags_ac, decide_eq_true_eq]
    omega

/-- Packing then unpacking the flags gives them back. -/
@[simp] theorem unpackFlags_packFlags (f : Flags) : unpackFlags (packFlags f) = f := by
  obtain ⟨s, z, ac, p, cy⟩ := f
  revert s z ac p cy
  decide

/-- Unpacking then packing a flag byte clears bits 5, 3 and 1 (R19, R20). -/
theorem packFlags_unpackFlags (v : Byte) : packFlags (unpackFlags v) = v &&& 0xD5 := by
  revert v
  decide

/-- The flag byte as a number (R19). -/
theorem packFlags_toNat (f : Flags) :
    (packFlags f).toNat = f.s.toNat * 128 + f.z.toNat * 64 + f.ac.toNat * 16 + f.p.toNat * 4
      + f.cy.toNat := by
  obtain ⟨s, z, ac, p, cy⟩ := f
  revert s z ac p cy
  decide

end Sys2Proof.Machine
end

