-- ==== Sys2Proof/Laws/Bits.lean ====
section
/-! SUPPORT. The laws of byte order, of the opcode fields and of the field tables. -/

namespace Sys2Proof

@[simp] theorem wordOf_hiByte_loByte (w : Word) : wordOf (hiByte w) (loByte w) = w := by
  apply BitVec.eq_of_getLsbD_eq
  intro i hi
  simp only [wordOf, hiByte, loByte, BitVec.getLsbD_append, BitVec.getLsbD_extractLsb']
  split
  · rename_i h; simp [h]
  · rename_i h
    have h8 : 8 + (i - 8) = i := by omega
    have hlt : i - 8 < 8 := by omega
    simp [h8, hlt]

@[simp] theorem hiByte_wordOf (hi lo : Byte) : hiByte (wordOf hi lo) = hi := by
  apply BitVec.eq_of_getLsbD_eq
  intro i hi'
  simp only [wordOf, hiByte, BitVec.getLsbD_extractLsb', BitVec.getLsbD_append]
  simp [hi']

@[simp] theorem loByte_wordOf (hi lo : Byte) : loByte (wordOf hi lo) = lo := by
  apply BitVec.eq_of_getLsbD_eq
  intro i hi'
  simp only [wordOf, loByte, BitVec.getLsbD_extractLsb', BitVec.getLsbD_append]
  simp [hi']

theorem wordOf_toNat (hi lo : Byte) : (wordOf hi lo).toNat = hi.toNat * 256 + lo.toNat := by
  have h1 := hi.isLt
  have h2 := lo.isLt
  simp only [wordOf, BitVec.toNat_append]
  rw [← Nat.shiftLeft_add_eq_or_of_lt h2, Nat.shiftLeft_eq]

theorem hiByte_toNat (w : Word) : (hiByte w).toNat = w.toNat / 256 := by
  have h := w.isLt
  simp only [hiByte, BitVec.extractLsb'_toNat, Nat.shiftRight_eq_div_pow]
  omega

theorem loByte_toNat (w : Word) : (loByte w).toNat = w.toNat % 256 := by
  simp [loByte, BitVec.extractLsb'_toNat]

/-! ## The opcode fields -/

@[simp] theorem qqField_opcodeOf (q : Field2) (d s : Field3) : qqField (opcodeOf q d s) = q := by
  cases q <;> cases d <;> cases s <;> rfl

@[simp] theorem dddField_opcodeOf (q : Field2) (d s : Field3) : dddField (opcodeOf q d s) = d := by
  cases q <;> cases d <;> cases s <;> rfl

@[simp] theorem sssField_opcodeOf (q : Field2) (d s : Field3) : sssField (opcodeOf q d s) = s := by
  cases q <;> cases d <;> cases s <;> rfl

/-- An opcode byte is its three fields. -/
theorem opcodeOf_fields (op : Byte) : opcodeOf (qqField op) (dddField op) (sssField op) = op := by
  revert op
  decide

/-- Every opcode byte is `qq ddd sss` for some fields. -/
theorem exists_opcodeOf (op : Byte) : ∃ q d s, op = opcodeOf q d s :=
  ⟨_, _, _, (opcodeOf_fields op).symm⟩

@[simp] theorem pairForm_pairField (rp : Field2) (x : Bool) : pairForm (pairField rp x) = (rp, x) := by
  cases rp <;> cases x <;> rfl

@[simp] theorem pairField_pairForm (d : Field3) : pairField (pairForm d).1 (pairForm d).2 = d := by
  cases d <;> rfl

@[simp] theorem regOf_regField (r : Reg) : regOf (regField r) = r := by cases r <;> rfl

@[simp] theorem regField_regOf (f : Field3) : regField (regOf f) = f := by cases f <;> rfl

@[simp] theorem pairOf_pairBits (rp : Pair) : pairOf (pairBits rp) = rp := by cases rp <;> rfl

@[simp] theorem pairBits_pairOf (f : Field2) : pairBits (pairOf f) = f := by cases f <;> rfl

/-- What `decodeOp` reads off an opcode byte written by its fields. -/
theorem decodeOp_opcodeOf (ca : CallAlias) (q : Field2) (d s : Field3) (b2 b3 : Byte) :
    decodeOp ca (opcodeOf q d s) b2 b3 =
      match q with
      | .f00 => decodeQ00 d s b2 b3
      | .f01 => decodeQ01 d s
      | .f10 => decodeQ10 d s
      | .f11 => decodeQ11 ca d s b2 b3 := by
  cases q <;> simp only [decodeOp, qqField_opcodeOf, dddField_opcodeOf, sssField_opcodeOf]

end Sys2Proof
end

