-- ==== Sys2Proof/Laws/State.lean ====
section
/-! SUPPORT. What each named update of the state leaves in each field: one lemma per field, so that no
later proof unfolds a record update. -/

namespace Sys2Proof.Machine

/-! ### `writeMem` -/

@[simp] theorem writeMem_b (s : State) (x : Word) (v : Byte) :
    (writeMem s x v).b = s.b := rfl

@[simp] theorem writeMem_c (s : State) (x : Word) (v : Byte) :
    (writeMem s x v).c = s.c := rfl

@[simp] theorem writeMem_d (s : State) (x : Word) (v : Byte) :
    (writeMem s x v).d = s.d := rfl

@[simp] theorem writeMem_e (s : State) (x : Word) (v : Byte) :
    (writeMem s x v).e = s.e := rfl

@[simp] theorem writeMem_h (s : State) (x : Word) (v : Byte) :
    (writeMem s x v).h = s.h := rfl

@[simp] theorem writeMem_l (s : State) (x : Word) (v : Byte) :
    (writeMem s x v).l = s.l := rfl

@[simp] theorem writeMem_a (s : State) (x : Word) (v : Byte) :
    (writeMem s x v).a = s.a := rfl

@[simp] theorem writeMem_pc (s : State) (x : Word) (v : Byte) :
    (writeMem s x v).pc = s.pc := rfl

@[simp] theorem writeMem_sp (s : State) (x : Word) (v : Byte) :
    (writeMem s x v).sp = s.sp := rfl

@[simp] theorem writeMem_flags (s : State) (x : Word) (v : Byte) :
    (writeMem s x v).flags = s.flags := rfl

@[simp] theorem writeMem_halted (s : State) (x : Word) (v : Byte) :
    (writeMem s x v).halted = s.halted := rfl

@[simp] theorem writeMem_mem (s : State) (x : Word) (v : Byte) :
    (writeMem s x v).mem = memPut s.mem x.toNat v := rfl

/-! ### `writeMem2` -/

@[simp] theorem writeMem2_b (s : State) (x v : Word) :
    (writeMem2 s x v).b = s.b := rfl

@[simp] theorem writeMem2_c (s : State) (x v : Word) :
    (writeMem2 s x v).c = s.c := rfl

@[simp] theorem writeMem2_d (s : State) (x v : Word) :
    (writeMem2 s x v).d = s.d := rfl

@[simp] theorem writeMem2_e (s : State) (x v : Word) :
    (writeMem2 s x v).e = s.e := rfl

@[simp] theorem writeMem2_h (s : State) (x v : Word) :
    (writeMem2 s x v).h = s.h := rfl

@[simp] theorem writeMem2_l (s : State) (x v : Word) :
    (writeMem2 s x v).l = s.l := rfl

@[simp] theorem writeMem2_a (s : State) (x v : Word) :
    (writeMem2 s x v).a = s.a := rfl

@[simp] theorem writeMem2_pc (s : State) (x v : Word) :
    (writeMem2 s x v).pc = s.pc := rfl

@[simp] theorem writeMem2_sp (s : State) (x v : Word) :
    (writeMem2 s x v).sp = s.sp := rfl

@[simp] theorem writeMem2_flags (s : State) (x v : Word) :
    (writeMem2 s x v).flags = s.flags := rfl

@[simp] theorem writeMem2_halted (s : State) (x v : Word) :
    (writeMem2 s x v).halted = s.halted := rfl

/-! ### `push16` -/

@[simp] theorem push16_b (s : State) (v : Word) :
    (push16 s v).b = s.b := rfl

@[simp] theorem push16_c (s : State) (v : Word) :
    (push16 s v).c = s.c := rfl

@[simp] theorem push16_d (s : State) (v : Word) :
    (push16 s v).d = s.d := rfl

@[simp] theorem push16_e (s : State) (v : Word) :
    (push16 s v).e = s.e := rfl

@[simp] theorem push16_h (s : State) (v : Word) :
    (push16 s v).h = s.h := rfl

@[simp] theorem push16_l (s : State) (v : Word) :
    (push16 s v).l = s.l := rfl

@[simp] theorem push16_a (s : State) (v : Word) :
    (push16 s v).a = s.a := rfl

@[simp] theorem push16_pc (s : State) (v : Word) :
    (push16 s v).pc = s.pc := rfl

@[simp] theorem push16_sp (s : State) (v : Word) :
    (push16 s v).sp = s.sp - 2 := rfl

@[simp] theorem push16_flags (s : State) (v : Word) :
    (push16 s v).flags = s.flags := rfl

@[simp] theorem push16_halted (s : State) (v : Word) :
    (push16 s v).halted = s.halted := rfl

/-! ### `pop16_state` -/

@[simp] theorem pop16_state_b (s : State) :
    ((pop16 s).2).b = s.b := rfl

@[simp] theorem pop16_state_c (s : State) :
    ((pop16 s).2).c = s.c := rfl

@[simp] theorem pop16_state_d (s : State) :
    ((pop16 s).2).d = s.d := rfl

@[simp] theorem pop16_state_e (s : State) :
    ((pop16 s).2).e = s.e := rfl

@[simp] theorem pop16_state_h (s : State) :
    ((pop16 s).2).h = s.h := rfl

@[simp] theorem pop16_state_l (s : State) :
    ((pop16 s).2).l = s.l := rfl

@[simp] theorem pop16_state_a (s : State) :
    ((pop16 s).2).a = s.a := rfl

@[simp] theorem pop16_state_pc (s : State) :
    ((pop16 s).2).pc = s.pc := rfl

@[simp] theorem pop16_state_sp (s : State) :
    ((pop16 s).2).sp = s.sp + 2 := rfl

@[simp] theorem pop16_state_flags (s : State) :
    ((pop16 s).2).flags = s.flags := rfl

@[simp] theorem pop16_state_halted (s : State) :
    ((pop16 s).2).halted = s.halted := rfl

@[simp] theorem pop16_state_mem (s : State) :
    ((pop16 s).2).mem = s.mem := rfl

/-! ### `fetchByte_state` -/

@[simp] theorem fetchByte_state_b (s : State) :
    ((fetchByte s).2).b = s.b := rfl

@[simp] theorem fetchByte_state_c (s : State) :
    ((fetchByte s).2).c = s.c := rfl

@[simp] theorem fetchByte_state_d (s : State) :
    ((fetchByte s).2).d = s.d := rfl

@[simp] theorem fetchByte_state_e (s : State) :
    ((fetchByte s).2).e = s.e := rfl

@[simp] theorem fetchByte_state_h (s : State) :
    ((fetchByte s).2).h = s.h := rfl

@[simp] theorem fetchByte_state_l (s : State) :
    ((fetchByte s).2).l = s.l := rfl

@[simp] theorem fetchByte_state_a (s : State) :
    ((fetchByte s).2).a = s.a := rfl

@[simp] theorem fetchByte_state_pc (s : State) :
    ((fetchByte s).2).pc = s.pc + 1 := rfl

@[simp] theorem fetchByte_state_sp (s : State) :
    ((fetchByte s).2).sp = s.sp := rfl

@[simp] theorem fetchByte_state_flags (s : State) :
    ((fetchByte s).2).flags = s.flags := rfl

@[simp] theorem fetchByte_state_halted (s : State) :
    ((fetchByte s).2).halted = s.halted := rfl

@[simp] theorem fetchByte_state_mem (s : State) :
    ((fetchByte s).2).mem = s.mem := rfl

/-! ### `toAcc` -/

@[simp] theorem toAcc_b (s : State) (o : AluOut) :
    (toAcc s o).b = s.b := rfl

@[simp] theorem toAcc_c (s : State) (o : AluOut) :
    (toAcc s o).c = s.c := rfl

@[simp] theorem toAcc_d (s : State) (o : AluOut) :
    (toAcc s o).d = s.d := rfl

@[simp] theorem toAcc_e (s : State) (o : AluOut) :
    (toAcc s o).e = s.e := rfl

@[simp] theorem toAcc_h (s : State) (o : AluOut) :
    (toAcc s o).h = s.h := rfl

@[simp] theorem toAcc_l (s : State) (o : AluOut) :
    (toAcc s o).l = s.l := rfl

@[simp] theorem toAcc_a (s : State) (o : AluOut) :
    (toAcc s o).a = o.res := rfl

@[simp] theorem toAcc_pc (s : State) (o : AluOut) :
    (toAcc s o).pc = s.pc := rfl

@[simp] theorem toAcc_sp (s : State) (o : AluOut) :
    (toAcc s o).sp = s.sp := rfl

@[simp] theorem toAcc_flags (s : State) (o : AluOut) :
    (toAcc s o).flags = o.flags := rfl

@[simp] theorem toAcc_halted (s : State) (o : AluOut) :
    (toAcc s o).halted = s.halted := rfl

@[simp] theorem toAcc_mem (s : State) (o : AluOut) :
    (toAcc s o).mem = s.mem := rfl

/-! ### `toFlags` -/

@[simp] theorem toFlags_b (s : State) (o : AluOut) :
    (toFlags s o).b = s.b := rfl

@[simp] theorem toFlags_c (s : State) (o : AluOut) :
    (toFlags s o).c = s.c := rfl

@[simp] theorem toFlags_d (s : State) (o : AluOut) :
    (toFlags s o).d = s.d := rfl

@[simp] theorem toFlags_e (s : State) (o : AluOut) :
    (toFlags s o).e = s.e := rfl

@[simp] theorem toFlags_h (s : State) (o : AluOut) :
    (toFlags s o).h = s.h := rfl

@[simp] theorem toFlags_l (s : State) (o : AluOut) :
    (toFlags s o).l = s.l := rfl

@[simp] theorem toFlags_a (s : State) (o : AluOut) :
    (toFlags s o).a = s.a := rfl

@[simp] theorem toFlags_pc (s : State) (o : AluOut) :
    (toFlags s o).pc = s.pc := rfl

@[simp] theorem toFlags_sp (s : State) (o : AluOut) :
    (toFlags s o).sp = s.sp := rfl

@[simp] theorem toFlags_flags (s : State) (o : AluOut) :
    (toFlags s o).flags = o.flags := rfl

@[simp] theorem toFlags_halted (s : State) (o : AluOut) :
    (toFlags s o).halted = s.halted := rfl

@[simp] theorem toFlags_mem (s : State) (o : AluOut) :
    (toFlags s o).mem = s.mem := rfl

/-! ### `rotated` -/

@[simp] theorem rotated_b (s : State) (v : Byte) (out : Bool) :
    (rotated s v out).b = s.b := rfl

@[simp] theorem rotated_c (s : State) (v : Byte) (out : Bool) :
    (rotated s v out).c = s.c := rfl

@[simp] theorem rotated_d (s : State) (v : Byte) (out : Bool) :
    (rotated s v out).d = s.d := rfl

@[simp] theorem rotated_e (s : State) (v : Byte) (out : Bool) :
    (rotated s v out).e = s.e := rfl

@[simp] theorem rotated_h (s : State) (v : Byte) (out : Bool) :
    (rotated s v out).h = s.h := rfl

@[simp] theorem rotated_l (s : State) (v : Byte) (out : Bool) :
    (rotated s v out).l = s.l := rfl

@[simp] theorem rotated_a (s : State) (v : Byte) (out : Bool) :
    (rotated s v out).a = v := rfl

@[simp] theorem rotated_pc (s : State) (v : Byte) (out : Bool) :
    (rotated s v out).pc = s.pc := rfl

@[simp] theorem rotated_sp (s : State) (v : Byte) (out : Bool) :
    (rotated s v out).sp = s.sp := rfl

@[simp] theorem rotated_flags (s : State) (v : Byte) (out : Bool) :
    (rotated s v out).flags = { s.flags with cy := out } := rfl

@[simp] theorem rotated_halted (s : State) (v : Byte) (out : Bool) :
    (rotated s v out).halted = s.halted := rfl

@[simp] theorem rotated_mem (s : State) (v : Byte) (out : Bool) :
    (rotated s v out).mem = s.mem := rfl

/-! ### `jumpTo` -/

@[simp] theorem jumpTo_b (s : State) (x : Word) :
    (jumpTo s x).b = s.b := rfl

@[simp] theorem jumpTo_c (s : State) (x : Word) :
    (jumpTo s x).c = s.c := rfl

@[simp] theorem jumpTo_d (s : State) (x : Word) :
    (jumpTo s x).d = s.d := rfl

@[simp] theorem jumpTo_e (s : State) (x : Word) :
    (jumpTo s x).e = s.e := rfl

@[simp] theorem jumpTo_h (s : State) (x : Word) :
    (jumpTo s x).h = s.h := rfl

@[simp] theorem jumpTo_l (s : State) (x : Word) :
    (jumpTo s x).l = s.l := rfl

@[simp] theorem jumpTo_a (s : State) (x : Word) :
    (jumpTo s x).a = s.a := rfl

@[simp] theorem jumpTo_pc (s : State) (x : Word) :
    (jumpTo s x).pc = x := rfl

@[simp] theorem jumpTo_sp (s : State) (x : Word) :
    (jumpTo s x).sp = s.sp := rfl

@[simp] theorem jumpTo_flags (s : State) (x : Word) :
    (jumpTo s x).flags = s.flags := rfl

@[simp] theorem jumpTo_halted (s : State) (x : Word) :
    (jumpTo s x).halted = s.halted := rfl

@[simp] theorem jumpTo_mem (s : State) (x : Word) :
    (jumpTo s x).mem = s.mem := rfl

/-! ### `callTo` -/

@[simp] theorem callTo_b (s : State) (x : Word) :
    (callTo s x).b = s.b := rfl

@[simp] theorem callTo_c (s : State) (x : Word) :
    (callTo s x).c = s.c := rfl

@[simp] theorem callTo_d (s : State) (x : Word) :
    (callTo s x).d = s.d := rfl

@[simp] theorem callTo_e (s : State) (x : Word) :
    (callTo s x).e = s.e := rfl

@[simp] theorem callTo_h (s : State) (x : Word) :
    (callTo s x).h = s.h := rfl

@[simp] theorem callTo_l (s : State) (x : Word) :
    (callTo s x).l = s.l := rfl

@[simp] theorem callTo_a (s : State) (x : Word) :
    (callTo s x).a = s.a := rfl

@[simp] theorem callTo_pc (s : State) (x : Word) :
    (callTo s x).pc = x := rfl

@[simp] theorem callTo_sp (s : State) (x : Word) :
    (callTo s x).sp = s.sp - 2 := rfl

@[simp] theorem callTo_flags (s : State) (x : Word) :
    (callTo s x).flags = s.flags := rfl

@[simp] theorem callTo_halted (s : State) (x : Word) :
    (callTo s x).halted = s.halted := rfl

@[simp] theorem callTo_mem (s : State) (x : Word) :
    (callTo s x).mem = (push16 s s.pc).mem := rfl

/-! ### `returnFrom` -/

@[simp] theorem returnFrom_b (s : State) :
    (returnFrom s).b = s.b := rfl

@[simp] theorem returnFrom_c (s : State) :
    (returnFrom s).c = s.c := rfl

@[simp] theorem returnFrom_d (s : State) :
    (returnFrom s).d = s.d := rfl

@[simp] theorem returnFrom_e (s : State) :
    (returnFrom s).e = s.e := rfl

@[simp] theorem returnFrom_h (s : State) :
    (returnFrom s).h = s.h := rfl

@[simp] theorem returnFrom_l (s : State) :
    (returnFrom s).l = s.l := rfl

@[simp] theorem returnFrom_a (s : State) :
    (returnFrom s).a = s.a := rfl

@[simp] theorem returnFrom_pc (s : State) :
    (returnFrom s).pc = stackTop s := rfl

@[simp] theorem returnFrom_sp (s : State) :
    (returnFrom s).sp = s.sp + 2 := rfl

@[simp] theorem returnFrom_flags (s : State) :
    (returnFrom s).flags = s.flags := rfl

@[simp] theorem returnFrom_halted (s : State) :
    (returnFrom s).halted = s.halted := rfl

@[simp] theorem returnFrom_mem (s : State) :
    (returnFrom s).mem = s.mem := rfl

/-! ### `writePsw` -/

@[simp] theorem writePsw_b (s : State) (v : Word) :
    (writePsw s v).b = s.b := rfl

@[simp] theorem writePsw_c (s : State) (v : Word) :
    (writePsw s v).c = s.c := rfl

@[simp] theorem writePsw_d (s : State) (v : Word) :
    (writePsw s v).d = s.d := rfl

@[simp] theorem writePsw_e (s : State) (v : Word) :
    (writePsw s v).e = s.e := rfl

@[simp] theorem writePsw_h (s : State) (v : Word) :
    (writePsw s v).h = s.h := rfl

@[simp] theorem writePsw_l (s : State) (v : Word) :
    (writePsw s v).l = s.l := rfl

@[simp] theorem writePsw_a (s : State) (v : Word) :
    (writePsw s v).a = hiByte v := rfl

@[simp] theorem writePsw_pc (s : State) (v : Word) :
    (writePsw s v).pc = s.pc := rfl

@[simp] theorem writePsw_sp (s : State) (v : Word) :
    (writePsw s v).sp = s.sp := rfl

@[simp] theorem writePsw_flags (s : State) (v : Word) :
    (writePsw s v).flags = unpackFlags (loByte v) := rfl

@[simp] theorem writePsw_halted (s : State) (v : Word) :
    (writePsw s v).halted = s.halted := rfl

@[simp] theorem writePsw_mem (s : State) (v : Word) :
    (writePsw s v).mem = s.mem := rfl

/-! ### `resetCore` -/

@[simp] theorem resetCore_b (s : State) : (resetCore s).b = 0x00 := rfl

@[simp] theorem resetCore_c (s : State) : (resetCore s).c = 0x00 := rfl

@[simp] theorem resetCore_d (s : State) : (resetCore s).d = 0x00 := rfl

@[simp] theorem resetCore_e (s : State) : (resetCore s).e = 0x00 := rfl

@[simp] theorem resetCore_h (s : State) : (resetCore s).h = 0x00 := rfl

@[simp] theorem resetCore_l (s : State) : (resetCore s).l = 0x00 := rfl

@[simp] theorem resetCore_a (s : State) : (resetCore s).a = 0x00 := rfl

@[simp] theorem resetCore_pc (s : State) : (resetCore s).pc = 0x0000 := rfl

@[simp] theorem resetCore_sp (s : State) : (resetCore s).sp = 0xFFFF := rfl

@[simp] theorem resetCore_halted (s : State) : (resetCore s).halted = false := rfl

@[simp] theorem resetCore_mem (s : State) : (resetCore s).mem = s.mem := rfl

@[simp] theorem resetCore_flags (s : State) :
    (resetCore s).flags = { s := false, z := false, ac := false, p := false, cy := false } := rfl

/-! ### `writeReg` -/

@[simp] theorem writeReg_pc (s : State) (r : Reg) (v : Byte) :
    (writeReg s r v).pc = s.pc := by cases r <;> rfl

@[simp] theorem writeReg_sp (s : State) (r : Reg) (v : Byte) :
    (writeReg s r v).sp = s.sp := by cases r <;> rfl

@[simp] theorem writeReg_flags (s : State) (r : Reg) (v : Byte) :
    (writeReg s r v).flags = s.flags := by cases r <;> rfl

@[simp] theorem writeReg_halted (s : State) (r : Reg) (v : Byte) :
    (writeReg s r v).halted = s.halted := by cases r <;> rfl

/-! ### `writePair` -/

@[simp] theorem writePair_a (s : State) (rp : Pair) (v : Word) :
    (writePair s rp v).a = s.a := by cases rp <;> rfl

@[simp] theorem writePair_pc (s : State) (rp : Pair) (v : Word) :
    (writePair s rp v).pc = s.pc := by cases rp <;> rfl

@[simp] theorem writePair_flags (s : State) (rp : Pair) (v : Word) :
    (writePair s rp v).flags = s.flags := by cases rp <;> rfl

@[simp] theorem writePair_halted (s : State) (rp : Pair) (v : Word) :
    (writePair s rp v).halted = s.halted := by cases rp <;> rfl

@[simp] theorem writePair_mem (s : State) (rp : Pair) (v : Word) :
    (writePair s rp v).mem = s.mem := by cases rp <;> rfl

/-! ### `toRegKeepCarry` -/

@[simp] theorem toRegKeepCarry_pc (s : State) (r : Reg) (o : AluOut) :
    (toRegKeepCarry s r o).pc = s.pc := by cases r <;> rfl

@[simp] theorem toRegKeepCarry_sp (s : State) (r : Reg) (o : AluOut) :
    (toRegKeepCarry s r o).sp = s.sp := by cases r <;> rfl

@[simp] theorem toRegKeepCarry_flags (s : State) (r : Reg) (o : AluOut) :
    (toRegKeepCarry s r o).flags = { o.flags with cy := s.flags.cy } := by cases r <;> rfl

@[simp] theorem toRegKeepCarry_halted (s : State) (r : Reg) (o : AluOut) :
    (toRegKeepCarry s r o).halted = s.halted := by cases r <;> rfl

end Sys2Proof.Machine
end

