-- ==== Sys2Proof/Laws/Memory.lean ====
section
/-! SUPPORT. The laws of memory: read after write, and that every operation keeps the canonical form. -/

namespace Sys2Proof.Machine

/-! ## The list of cells -/

theorem memGet_memDrop_self (m : Memory) (x : Nat) : memGet (memDrop m x) x = unlistedByte := by
  induction m with
  | nil => rfl
  | cons cell rest ih =>
    by_cases h : cell.1 = x <;> simp [memDrop, memGet, h, ih]

theorem memGet_memDrop_other (m : Memory) {x y : Nat} (hxy : y ≠ x) :
    memGet (memDrop m x) y = memGet m y := by
  induction m with
  | nil => rfl
  | cons cell rest ih =>
    by_cases h : cell.1 = x
    · have hy : ¬ cell.1 = y := fun hc => hxy (hc.symm.trans h)
      simp [memDrop, memGet, h, ih]
      intro hc
      exact absurd hc.symm hxy
    · simp [memDrop, memGet, h, ih]

theorem memGet_memInsert_other (m : Memory) {x y : Nat} (v : Byte) (hxy : y ≠ x) :
    memGet (memInsert m x v) y = memGet m y := by
  have hx : ¬ x = y := fun h => hxy h.symm
  induction m with
  | nil => simp [memInsert, memGet, hx]
  | cons cell rest ih =>
    by_cases h : x < cell.1 <;> simp [memInsert, memGet, h, hx, ih]

/-- No cell of the list has the address `x`. -/
def memAbsent (m : Memory) (x : Nat) : Prop := ∀ cell ∈ m, cell.1 ≠ x

theorem memAbsent_memDrop (m : Memory) (x : Nat) : memAbsent (memDrop m x) x := by
  induction m with
  | nil => simp [memDrop, memAbsent]
  | cons cell rest ih =>
    by_cases h : cell.1 = x
    · simpa [memDrop, h] using ih
    · intro c hc
      simp only [memDrop, h, if_false, List.mem_cons] at hc
      rcases hc with rfl | hc
      · exact h
      · exact ih c hc

theorem memGet_memInsert_self (m : Memory) (x : Nat) (v : Byte) (hx : memAbsent m x) :
    memGet (memInsert m x v) x = v := by
  induction m with
  | nil => simp [memInsert, memGet]
  | cons cell rest ih =>
    have hc : cell.1 ≠ x := hx cell (by simp)
    have hr : memAbsent rest x := fun c h => hx c (by simp [h])
    by_cases h : x < cell.1 <;> simp [memInsert, memGet, h, hc, ih hr]

theorem memGet_memPut_self (m : Memory) (x : Nat) (v : Byte) : memGet (memPut m x v) x = v := by
  unfold memPut
  split
  · rename_i h; rw [h]; exact memGet_memDrop_self m x
  · exact memGet_memInsert_self _ x v (memAbsent_memDrop m x)

theorem memGet_memPut_other (m : Memory) {x y : Nat} (v : Byte) (hxy : y ≠ x) :
    memGet (memPut m x v) y = memGet m y := by
  unfold memPut
  split
  · exact memGet_memDrop_other m hxy
  · rw [memGet_memInsert_other _ v hxy, memGet_memDrop_other m hxy]

/-! ## The canonical form -/

theorem memRising_cons {low : Nat} {cell : Host.Cell} {rest : Memory} :
    memRising low (cell :: rest) = true ↔
      low ≤ cell.1 ∧ cell.1 < 65536 ∧ cell.2 ≠ unlistedByte ∧ memRising (cell.1 + 1) rest = true := by
  simp [memRising, and_assoc]

theorem memRising_mono {low low' : Nat} (h : low' ≤ low) {m : Memory} (hm : memRising low m = true) :
    memRising low' m = true := by
  cases m with
  | nil => rfl
  | cons cell rest =>
    rw [memRising_cons] at *
    exact ⟨h.trans hm.1, hm.2⟩

theorem memRising_memDrop {low : Nat} {m : Memory} (x : Nat) (hm : memRising low m = true) :
    memRising low (memDrop m x) = true := by
  induction m generalizing low with
  | nil => rfl
  | cons cell rest ih =>
    rw [memRising_cons] at hm
    obtain ⟨h1, h2, h3, h4⟩ := hm
    by_cases h : cell.1 = x
    · simp only [memDrop, h, if_true]
      exact memRising_mono (by omega) (ih h4)
    · simp only [memDrop, h, if_false]
      exact memRising_cons.2 ⟨h1, h2, h3, ih h4⟩

theorem memRising_memInsert {low : Nat} {m : Memory} {x : Nat} {v : Byte} (hlow : low ≤ x)
    (hx : x < 65536) (hv : v ≠ unlistedByte) (ha : memAbsent m x) (hm : memRising low m = true) :
    memRising low (memInsert m x v) = true := by
  induction m generalizing low with
  | nil => exact memRising_cons.2 ⟨hlow, hx, hv, rfl⟩
  | cons cell rest ih =>
    have hc : cell.1 ≠ x := ha cell (by simp)
    have hr : memAbsent rest x := fun c h => ha c (by simp [h])
    rw [memRising_cons] at hm
    obtain ⟨h1, h2, h3, h4⟩ := hm
    by_cases h : x < cell.1
    · simp only [memInsert, h, if_true]
      exact memRising_cons.2 ⟨hlow, hx, hv, memRising_cons.2 ⟨h, h2, h3, h4⟩⟩
    · simp only [memInsert, h, if_false]
      exact memRising_cons.2 ⟨h1, h2, h3, ih (by omega) hr h4⟩

theorem memPut_wf {m : Memory} (x : Word) (v : Byte) (hm : m.wf = true) :
    (memPut m x.toNat v).wf = true := by
  unfold Memory.wf memPut at *
  split
  · exact memRising_memDrop _ hm
  · rename_i hv
    exact memRising_memInsert (Nat.zero_le _) x.isLt hv (memAbsent_memDrop _ _) (memRising_memDrop _ hm)

theorem memGet_cons (cell : Host.Cell) (rest : Memory) (x : Nat) :
    memGet (cell :: rest) x = if cell.1 = x then cell.2 else memGet rest x := rfl

/-- Below the lowest address of a canonical memory nothing is listed. -/
theorem memGet_below {low x : Nat} {m : Memory} (hm : memRising low m = true) (hx : x < low) :
    memGet m x = unlistedByte := by
  induction m generalizing low with
  | nil => rfl
  | cons cell rest ih =>
    obtain ⟨h1, -, -, h4⟩ := memRising_cons.1 hm
    rw [memGet_cons, if_neg (by omega)]
    exact ih h4 (by omega)

theorem memRising_ext {low low' : Nat} {m m' : Memory} (hm : memRising low m = true)
    (hm' : memRising low' m' = true) (h : ∀ x, memGet m x = memGet m' x) : m = m' := by
  induction m generalizing low low' m' with
  | nil =>
    cases m' with
    | nil => rfl
    | cons cell rest =>
      have hc := h cell.1
      rw [memGet_cons, if_pos rfl] at hc
      exact absurd hc.symm (memRising_cons.1 hm').2.2.1
  | cons cell rest ih =>
    obtain ⟨-, -, h3, h4⟩ := memRising_cons.1 hm
    cases m' with
    | nil =>
      have hc := h cell.1
      rw [memGet_cons, if_pos rfl] at hc
      exact absurd hc h3
    | cons cell' rest' =>
      obtain ⟨-, -, h3', h4'⟩ := memRising_cons.1 hm'
      have ha : cell.1 = cell'.1 := by
        rcases Nat.lt_trichotomy cell.1 cell'.1 with hlt | heq | hgt
        · have hc := h cell.1
          rw [memGet_cons, if_pos rfl, memGet_cons, if_neg (by omega), memGet_below h4' (by omega)] at hc
          exact absurd hc h3
        · exact heq
        · have hc := h cell'.1
          rw [memGet_cons, if_neg (by omega), memGet_below h4 (by omega), memGet_cons, if_pos rfl] at hc
          exact absurd hc.symm h3'
      have hv : cell.2 = cell'.2 := by
        have hc := h cell.1
        rwa [memGet_cons, if_pos rfl, memGet_cons, if_pos ha.symm] at hc
      have hr : rest = rest' := by
        refine ih h4 h4' fun x => ?_
        by_cases hx : cell.1 = x
        · rw [memGet_below h4 (by omega), memGet_below h4' (by omega)]
        · have hc := h x
          rwa [memGet_cons, if_neg hx, memGet_cons, if_neg (ha ▸ hx)] at hc
      rw [Prod.ext ha hv, hr]

/-- The form is canonical: two memories in it that hold the same bytes are equal. -/
theorem memory_ext {m m' : Memory} (hm : m.wf = true) (hm' : m'.wf = true)
    (h : ∀ x, memGet m x = memGet m' x) : m = m' := memRising_ext hm hm' h

/-- The memory after reset has the canonical form. -/
theorem reset_mem_wf : State.reset.mem.wf = true := rfl

/-! ## Reads and writes of the state -/

@[simp] theorem readMem_writeMem_self (s : State) (x : Word) (v : Byte) :
    readMem (writeMem s x v) x = v := memGet_memPut_self _ _ _

theorem readMem_writeMem_other (s : State) {x y : Word} (v : Byte) (h : y ≠ x) :
    readMem (writeMem s x v) y = readMem s y :=
  memGet_memPut_other _ _ (fun hc => h (BitVec.eq_of_toNat_eq hc))

/-- A read of a byte after a write of a byte, in one equation. -/
theorem readMem_writeMem (s : State) (x y : Word) (v : Byte) :
    readMem (writeMem s x v) y = if y = x then v else readMem s y := by
  split
  · rename_i h; rw [h, readMem_writeMem_self]
  · rename_i h; exact readMem_writeMem_other s v h

/-- A read depends on the memory alone. -/
theorem readMem_congr {s t : State} (h : t.mem = s.mem) (x : Word) : readMem t x = readMem s x := by
  simp [readMem, h]

@[simp] theorem writeMem_wf {s : State} (x : Word) (v : Byte) (h : s.mem.wf = true) :
    (writeMem s x v).mem.wf = true := memPut_wf x v h

theorem writeMem2_wf {s : State} (x v : Word) (h : s.mem.wf = true) :
    (writeMem2 s x v).mem.wf = true := writeMem_wf _ _ (writeMem_wf _ _ h)

theorem push16_wf {s : State} (v : Word) (h : s.mem.wf = true) : (push16 s v).mem.wf = true :=
  writeMem_wf _ _ (writeMem_wf _ _ h)

theorem writeBytes_wf {s : State} (bytes : List Byte) (x : Word) (h : s.mem.wf = true) :
    (writeBytes s x bytes).mem.wf = true := by
  induction bytes generalizing s x with
  | nil => exact h
  | cons v rest ih => exact ih _ (writeMem_wf x v h)

theorem writeReg_wf {s : State} (r : Reg) (v : Byte) (h : s.mem.wf = true) :
    (writeReg s r v).mem.wf = true := by
  cases r <;> first | exact h | exact writeMem_wf _ _ h

/-- All that a little-endian word write does to a byte read (R43): the second write wins, which matters
for no address, since `x + 1` is never `x`. -/
theorem readMem_writeMem2 (s : State) (x v y : Word) :
    readMem (writeMem2 s x v) y =
      if y = x + 1 then hiByte v else if y = x then loByte v else readMem s y := by
  simp only [writeMem2, readMem_writeMem]

/-- All that a push does to a byte read (R230). -/
theorem readMem_push16 (s : State) (v y : Word) :
    readMem (push16 s v) y =
      if y = s.sp - 2 then loByte v else if y = s.sp - 1 then hiByte v else readMem s y := by
  show readMem (writeMem (writeMem s (s.sp - 1) (hiByte v)) (s.sp - 2) (loByte v)) y = _
  simp only [readMem_writeMem]

end Sys2Proof.Machine
end

