-- ==== Sys2Proof/Laws/Operands.lean ====
section
/-! SUPPORT. The laws of the operand forms: register and pair writes, reads and frames (R12, R13, R110). -/

namespace Sys2Proof.Machine

theorem readReg_m (s : State) : readReg s .m = readMem s (hlWord s) := rfl

/-- A physical register reads what was written to it (R12). -/
theorem readReg_writeReg_self (s : State) {r : Reg} (v : Byte) (h : r ≠ .m) :
    readReg (writeReg s r v) r = v := by
  cases r <;> first | rfl | exact absurd rfl h

/-- A write of a register, or through M, changes no other physical register (R12). -/
theorem readReg_writeReg_other (s : State) {r q : Reg} (v : Byte) (hq : q ≠ .m) (hne : q ≠ r) :
    readReg (writeReg s r v) q = readReg s q := by
  cases r <;> cases q <;> first | rfl | exact absurd rfl hne | exact absurd rfl hq

theorem writeReg_regsBut (s : State) (r : Reg) (v : Byte) : SameRegsBut [r] s (writeReg s r v) :=
  fun _ hq hn => readReg_writeReg_other s v hq (by simpa using hn)

/-- A write of a physical register leaves memory alone (R12). -/
theorem writeReg_mem (s : State) {r : Reg} (v : Byte) (h : r ≠ .m) :
    (writeReg s r v).mem = s.mem := by
  cases r <;> first | rfl | exact absurd rfl h

theorem writeReg_m (s : State) (v : Byte) : writeReg s .m v = writeMem s (hlWord s) v := rfl

/-- All that a register write does to a byte read. -/
theorem readMem_writeReg (s : State) (r : Reg) (v : Byte) (x : Word) :
    readMem (writeReg s r v) x = if r = .m ∧ x = hlWord s then v else readMem s x := by
  by_cases h : r = .m
  · subst h; simp [writeReg_m, readMem_writeMem]
  · simp [h, readMem_congr (writeReg_mem s v h)]

/-- A pair reads what was written to it (R13). -/
@[simp] theorem readPair_writePair_self (s : State) (rp : Pair) (v : Word) :
    readPair (writePair s rp v) rp = v := by
  cases rp <;> simp [readPair, writePair]

theorem writePair_regsBut (s : State) (rp : Pair) (v : Word) :
    SameRegsBut (pairRegs rp) s (writePair s rp v) := by
  intro q hq hn
  cases rp <;> cases q <;> simp_all [pairRegs] <;> rfl

/-- A pair of registers is written without SP. -/
theorem writePair_sp (s : State) {rp : Pair} (v : Word) (h : rp ≠ .sp) :
    (writePair s rp v).sp = s.sp := by
  cases rp <;> first | rfl | exact absurd rfl h

@[simp] theorem readMem_writePair (s : State) (rp : Pair) (v x : Word) :
    readMem (writePair s rp v) x = readMem s x := readMem_congr (writePair_mem s rp v) x

@[simp] theorem hlWord_writeMem (s : State) (x : Word) (v : Byte) :
    hlWord (writeMem s x v) = hlWord s := rfl

/-- A physical register does not depend on memory. -/
theorem readReg_writeMem (s : State) {r : Reg} (x : Word) (v : Byte) (h : r ≠ .m) :
    readReg (writeMem s x v) r = readReg s r := by
  cases r <;> first | rfl | exact absurd rfl h

/-- Two states with the same registers read the same physical registers. -/
theorem readReg_congr {s : State} (m : Memory) {r : Reg} (h : r ≠ .m) :
    readReg { s with mem := m } r = readReg s r := by
  cases r <;> first | rfl | exact absurd rfl h

end Sys2Proof.Machine
end

