-- ==== Sys2Proof/Laws/Blocks.lean ====
section
/-! SUPPORT. The laws of stores of more than one byte: what a word store, a push and a block of bytes
leave alone, and where a block's bytes stand. -/

namespace Sys2Proof.Machine

theorem writeMem_sameMemBut (s : State) (x : Word) (v : Byte) : SameMemBut [x] s (writeMem s x v) :=
  fun _ h => readMem_writeMem_other _ _ (by simpa using h)

theorem writeMem2_sameMemBut (s : State) (x v : Word) :
    SameMemBut [x, x + 1] s (writeMem2 s x v) := by
  intro y h
  rw [readMem_writeMem2, if_neg (fun e => h (by simp [e])), if_neg (fun e => h (by simp [e]))]

theorem push16_sameMemBut (s : State) (v : Word) :
    SameMemBut [s.sp - 1, s.sp - 2] s (push16 s v) := by
  intro y h
  rw [readMem_push16, if_neg (fun e => h (by simp [e])), if_neg (fun e => h (by simp [e]))]

/-- A block of bytes changes memory and nothing else. -/
theorem writeBytes_eq (s : State) (x : Word) (bytes : List Byte) :
    writeBytes s x bytes = { s with mem := (writeBytes s x bytes).mem } := by
  induction bytes generalizing s x with
  | nil => rfl
  | cons v rest ih => rw [writeBytes, ih]; rfl

theorem ofNat_succ_word (x : Word) (k : Nat) :
    x + BitVec.ofNat 16 (k + 1) = x + 1 + BitVec.ofNat 16 k := by
  apply BitVec.eq_of_toNat_eq
  simp
  omega

/-- An address outside a block keeps its byte. -/
theorem readMem_writeBytes_outside (s : State) (x y : Word) (bytes : List Byte)
    (h : ∀ k, k < bytes.length → y ≠ x + BitVec.ofNat 16 k) :
    readMem (writeBytes s x bytes) y = readMem s y := by
  induction bytes generalizing s x with
  | nil => rfl
  | cons v rest ih =>
    rw [writeBytes, ih, readMem_writeMem_other]
    · simpa using h 0 (by simp)
    · intro k hk
      rw [← ofNat_succ_word]
      exact h (k + 1) (by simp; omega)

/-- A block no longer than memory stands where it was written, its addresses modulo 65536. -/
theorem readMem_writeBytes_inside (s : State) (x : Word) (bytes : List Byte)
    (hl : bytes.length ≤ 65536) (k : Nat) (v : Byte) (h : bytes[k]? = some v) :
    readMem (writeBytes s x bytes) (x + BitVec.ofNat 16 k) = v := by
  induction bytes generalizing s x k with
  | nil => simp at h
  | cons w rest ih =>
    simp only [List.length_cons] at hl
    rw [writeBytes]
    cases k with
    | zero =>
      obtain rfl : w = v := by simpa using h
      rw [readMem_writeBytes_outside]
      · simp
      · intro k hk he
        have := congrArg BitVec.toNat he
        simp at this
        omega
    | succ k =>
      rw [ofNat_succ_word]
      exact ih _ _ (by omega) _ (by simpa using h)

end Sys2Proof.Machine
end

