-- ==== Sys2Proof/Laws/PerInstr.lean ====
section
/-! SUPPORT. Statements for all instructions, one lemma per constructor. -/

namespace Sys2Proof.Laws

/-- The encoding of `i` has the length of its format (R60, R61), for every `CALL_ALIAS`. -/
def EncodedLength.Statement (i : Instr) : Prop :=
  ∀ ca : CallAlias, (encodeWith ca i).length = i.length

theorem EncodedLength.nop : EncodedLength.Statement .nop := fun _ => rfl
theorem EncodedLength.nopAlias (xxx : Field3) : EncodedLength.Statement (.nopAlias xxx) := fun _ => rfl
theorem EncodedLength.lxi (rp : Pair) (d16 : Word) : EncodedLength.Statement (.lxi rp d16) := fun _ => rfl
theorem EncodedLength.stax (p : IndirectPair) : EncodedLength.Statement (.stax p) := fun _ => rfl
theorem EncodedLength.ldax (p : IndirectPair) : EncodedLength.Statement (.ldax p) := fun _ => rfl
theorem EncodedLength.shld (addr : Word) : EncodedLength.Statement (.shld addr) := fun _ => rfl
theorem EncodedLength.lhld (addr : Word) : EncodedLength.Statement (.lhld addr) := fun _ => rfl
theorem EncodedLength.sta (addr : Word) : EncodedLength.Statement (.sta addr) := fun _ => rfl
theorem EncodedLength.lda (addr : Word) : EncodedLength.Statement (.lda addr) := fun _ => rfl
theorem EncodedLength.inx (rp : Pair) : EncodedLength.Statement (.inx rp) := fun _ => rfl
theorem EncodedLength.dcx (rp : Pair) : EncodedLength.Statement (.dcx rp) := fun _ => rfl
theorem EncodedLength.dad (rp : Pair) : EncodedLength.Statement (.dad rp) := fun _ => rfl
theorem EncodedLength.inr (r : Reg) : EncodedLength.Statement (.inr r) := fun _ => rfl
theorem EncodedLength.dcr (r : Reg) : EncodedLength.Statement (.dcr r) := fun _ => rfl
theorem EncodedLength.mvi (r : Reg) (d8 : Byte) : EncodedLength.Statement (.mvi r d8) := fun _ => rfl
theorem EncodedLength.rlc : EncodedLength.Statement .rlc := fun _ => rfl
theorem EncodedLength.rrc : EncodedLength.Statement .rrc := fun _ => rfl
theorem EncodedLength.ral : EncodedLength.Statement .ral := fun _ => rfl
theorem EncodedLength.rar : EncodedLength.Statement .rar := fun _ => rfl
theorem EncodedLength.daa : EncodedLength.Statement .daa := fun _ => rfl
theorem EncodedLength.cma : EncodedLength.Statement .cma := fun _ => rfl
theorem EncodedLength.stc : EncodedLength.Statement .stc := fun _ => rfl
theorem EncodedLength.cmc : EncodedLength.Statement .cmc := fun _ => rfl
theorem EncodedLength.mov (dst : Reg) (src : Reg) : EncodedLength.Statement (.mov dst src) := fun _ => rfl
theorem EncodedLength.hlt : EncodedLength.Statement .hlt := fun _ => rfl
theorem EncodedLength.add (r : Reg) : EncodedLength.Statement (.add r) := fun _ => rfl
theorem EncodedLength.adc (r : Reg) : EncodedLength.Statement (.adc r) := fun _ => rfl
theorem EncodedLength.sub (r : Reg) : EncodedLength.Statement (.sub r) := fun _ => rfl
theorem EncodedLength.sbb (r : Reg) : EncodedLength.Statement (.sbb r) := fun _ => rfl
theorem EncodedLength.ana (r : Reg) : EncodedLength.Statement (.ana r) := fun _ => rfl
theorem EncodedLength.xra (r : Reg) : EncodedLength.Statement (.xra r) := fun _ => rfl
theorem EncodedLength.ora (r : Reg) : EncodedLength.Statement (.ora r) := fun _ => rfl
theorem EncodedLength.cmp (r : Reg) : EncodedLength.Statement (.cmp r) := fun _ => rfl
theorem EncodedLength.rnz : EncodedLength.Statement .rnz := fun _ => rfl
theorem EncodedLength.rz : EncodedLength.Statement .rz := fun _ => rfl
theorem EncodedLength.rnc : EncodedLength.Statement .rnc := fun _ => rfl
theorem EncodedLength.rc : EncodedLength.Statement .rc := fun _ => rfl
theorem EncodedLength.rpo : EncodedLength.Statement .rpo := fun _ => rfl
theorem EncodedLength.rpe : EncodedLength.Statement .rpe := fun _ => rfl
theorem EncodedLength.rp : EncodedLength.Statement .rp := fun _ => rfl
theorem EncodedLength.rm : EncodedLength.Statement .rm := fun _ => rfl
theorem EncodedLength.jnz (addr : Word) : EncodedLength.Statement (.jnz addr) := fun _ => rfl
theorem EncodedLength.jz (addr : Word) : EncodedLength.Statement (.jz addr) := fun _ => rfl
theorem EncodedLength.jnc (addr : Word) : EncodedLength.Statement (.jnc addr) := fun _ => rfl
theorem EncodedLength.jc (addr : Word) : EncodedLength.Statement (.jc addr) := fun _ => rfl
theorem EncodedLength.jpo (addr : Word) : EncodedLength.Statement (.jpo addr) := fun _ => rfl
theorem EncodedLength.jpe (addr : Word) : EncodedLength.Statement (.jpe addr) := fun _ => rfl
theorem EncodedLength.jp (addr : Word) : EncodedLength.Statement (.jp addr) := fun _ => rfl
theorem EncodedLength.jm (addr : Word) : EncodedLength.Statement (.jm addr) := fun _ => rfl
theorem EncodedLength.cnz (addr : Word) : EncodedLength.Statement (.cnz addr) := fun _ => rfl
theorem EncodedLength.cz (addr : Word) : EncodedLength.Statement (.cz addr) := fun _ => rfl
theorem EncodedLength.cnc (addr : Word) : EncodedLength.Statement (.cnc addr) := fun _ => rfl
theorem EncodedLength.cc (addr : Word) : EncodedLength.Statement (.cc addr) := fun _ => rfl
theorem EncodedLength.cpo (addr : Word) : EncodedLength.Statement (.cpo addr) := fun _ => rfl
theorem EncodedLength.cpe (addr : Word) : EncodedLength.Statement (.cpe addr) := fun _ => rfl
theorem EncodedLength.cp (addr : Word) : EncodedLength.Statement (.cp addr) := fun _ => rfl
theorem EncodedLength.cm (addr : Word) : EncodedLength.Statement (.cm addr) := fun _ => rfl
theorem EncodedLength.pop (rp : StackPair) : EncodedLength.Statement (.pop rp) := fun _ => rfl
theorem EncodedLength.popPsw : EncodedLength.Statement .popPsw := fun _ => rfl
theorem EncodedLength.push (rp : StackPair) : EncodedLength.Statement (.push rp) := fun _ => rfl
theorem EncodedLength.pushPsw : EncodedLength.Statement .pushPsw := fun _ => rfl
theorem EncodedLength.jmp (addr : Word) : EncodedLength.Statement (.jmp addr) := fun _ => rfl
theorem EncodedLength.jmpAlias (addr : Word) : EncodedLength.Statement (.jmpAlias addr) := fun _ => rfl
theorem EncodedLength.call (addr : Word) : EncodedLength.Statement (.call addr) := fun _ => rfl
theorem EncodedLength.callAlias (addr : Word) : EncodedLength.Statement (.callAlias addr) := fun _ => rfl
theorem EncodedLength.ret : EncodedLength.Statement .ret := fun _ => rfl
theorem EncodedLength.retAlias : EncodedLength.Statement .retAlias := fun _ => rfl
theorem EncodedLength.adi (d8 : Byte) : EncodedLength.Statement (.adi d8) := fun _ => rfl
theorem EncodedLength.aci (d8 : Byte) : EncodedLength.Statement (.aci d8) := fun _ => rfl
theorem EncodedLength.sui (d8 : Byte) : EncodedLength.Statement (.sui d8) := fun _ => rfl
theorem EncodedLength.sbi (d8 : Byte) : EncodedLength.Statement (.sbi d8) := fun _ => rfl
theorem EncodedLength.ani (d8 : Byte) : EncodedLength.Statement (.ani d8) := fun _ => rfl
theorem EncodedLength.xri (d8 : Byte) : EncodedLength.Statement (.xri d8) := fun _ => rfl
theorem EncodedLength.ori (d8 : Byte) : EncodedLength.Statement (.ori d8) := fun _ => rfl
theorem EncodedLength.cpi (d8 : Byte) : EncodedLength.Statement (.cpi d8) := fun _ => rfl
theorem EncodedLength.xthl : EncodedLength.Statement .xthl := fun _ => rfl
theorem EncodedLength.pchl : EncodedLength.Statement .pchl := fun _ => rfl
theorem EncodedLength.xchg : EncodedLength.Statement .xchg := fun _ => rfl
theorem EncodedLength.sphl : EncodedLength.Statement .sphl := fun _ => rfl
theorem EncodedLength.unimplRst (nnn : Field3) : EncodedLength.Statement (.unimplRst nnn) := fun _ => rfl
theorem EncodedLength.unimplOut : EncodedLength.Statement .unimplOut := fun _ => rfl
theorem EncodedLength.unimplIn : EncodedLength.Statement .unimplIn := fun _ => rfl
theorem EncodedLength.unimplDi : EncodedLength.Statement .unimplDi := fun _ => rfl
theorem EncodedLength.unimplEi : EncodedLength.Statement .unimplEi := fun _ => rfl
theorem EncodedLength.unimpl0xED : EncodedLength.Statement .unimpl0xED := fun _ => rfl
theorem EncodedLength.unimpl0xFD : EncodedLength.Statement .unimpl0xFD := fun _ => rfl

end Sys2Proof.Laws
end

