-- ==== Sys2Proof/Tests/Slice0.lean ====
section
/-! SUPPORT. The model's own tests: the well-formedness check, decoding of words written out from the
tables of 30_encoding.md, one step of each instruction on vectors of 95_test_vectors.md (T<n>), and for
each obligation with hypotheses a witness that meets them. -/

namespace Sys2Proof.Tests

open Sys2Proof Sys2Proof.Machine

/-- The flags with the flag byte `v` (R19). -/
def packed (v : Byte) : Flags := unpackFlags v

/-- One step from `s`, with `bytes` at its PC, gives a next state for which `p` holds. -/
abbrev Ran (s : State) (bytes : List Byte) (p : State → Bool) : Prop :=
  (match step (placeInstr s bytes) with
    | .next t => p t
    | .fault _ => false
    | .refused _ => false) = true

/-- Each word decodes to the instruction beside it, and no byte is left over. -/
abbrev Decodes (ca : CallAlias) (rows : List (List Byte × Instr)) : Prop :=
  (rows.all fun row => decide (decodeWith ca row.1 = .instr row.2 [])) = true

/-! ## Well-formedness -/

/-- `MOV M,M` is no instruction (R111, C4); its neighbours are. -/
theorem test_wf_refuses_mov_m_m :
    Instr.wf (.mov .m .m) = false ∧ Instr.wf (.mov .m .a) = true ∧ Instr.wf (.mov .a .m) = true := by
  decide

/-- A NOP alias with the field 000 is no instruction (R67, R71); the seven others are. -/
theorem test_wf_refuses_nop_alias_000 :
    Instr.wf (.nopAlias .f000) = false ∧
      [Field3.f001, .f010, .f011, .f100, .f101, .f110, .f111].all (fun x => (Instr.nopAlias x).wf) =
        true := by
  decide

/-! ## Decoding, the words written bit by bit from 30_encoding.md -/

/-- Quadrant 00 (R67), the operations with a pair field or none. -/
theorem test_decode_quadrant_00_pairs : Decodes .dd [
    ([0b00000000], .nop), ([0b00001000], .nopAlias .f001), ([0b00111000], .nopAlias .f111),
    ([0b00000001, 0x34, 0x12], .lxi .bc 0x1234), ([0b00110001, 0x00, 0x24], .lxi .sp 0x2400),
    ([0b00001001], .dad .bc), ([0b00111001], .dad .sp),
    ([0b00000010], .stax .bc), ([0b00010010], .stax .de),
    ([0b00001010], .ldax .bc), ([0b00011010], .ldax .de),
    ([0b00100010, 0x34, 0x12], .shld 0x1234), ([0b00101010, 0x34, 0x12], .lhld 0x1234),
    ([0b00110010, 0x34, 0x12], .sta 0x1234), ([0b00111010, 0x34, 0x12], .lda 0x1234),
    ([0b00010011], .inx .de), ([0b00110011], .inx .sp),
    ([0b00001011], .dcx .bc), ([0b00101011], .dcx .hl)] := by
  decide

/-- Quadrant 00 (R67), the operations with a register field and the rotate row. -/
theorem test_decode_quadrant_00_registers : Decodes .dd [
    ([0b00001100], .inr .c), ([0b00110100], .inr .m), ([0b00111100], .inr .a),
    ([0b00010101], .dcr .d), ([0b00110101], .dcr .m),
    ([0b00000110, 0xFF], .mvi .b 0xFF), ([0b00110110, 0xAB], .mvi .m 0xAB),
    ([0b00111110, 0x01], .mvi .a 0x01),
    ([0b00000111], .rlc), ([0b00001111], .rrc), ([0b00010111], .ral), ([0b00011111], .rar),
    ([0b00100111], .daa), ([0b00101111], .cma), ([0b00110111], .stc), ([0b00111111], .cmc)] := by
  decide

/-- Quadrant 01 (R68). -/
theorem test_decode_quadrant_01 : Decodes .dd [
    ([0b01001111], .mov .c .a), ([0b01000001], .mov .b .c), ([0b01000110], .mov .b .m),
    ([0b01110000], .mov .m .b), ([0b01111110], .mov .a .m), ([0b01110111], .mov .m .a),
    ([0b01110110], .hlt)] := by
  decide

/-- Quadrant 10 (R69). -/
theorem test_decode_quadrant_10 : Decodes .dd [
    ([0b10000000], .add .b), ([0b10000110], .add .m), ([0b10001111], .adc .a),
    ([0b10010111], .sub .a), ([0b10011101], .sbb .l), ([0b10100001], .ana .c),
    ([0b10101111], .xra .a), ([0b10110110], .ora .m), ([0b10111011], .cmp .e)] := by
  decide

/-- Quadrant 11 (R70): the rows without operand bytes. -/
theorem test_decode_quadrant_11_one_byte : Decodes .dd [
    ([0b11000000], .rnz), ([0b11001000], .rz), ([0b11010000], .rnc), ([0b11011000], .rc),
    ([0b11100000], .rpo), ([0b11101000], .rpe), ([0b11110000], .rp), ([0b11111000], .rm),
    ([0b11000001], .pop .bc), ([0b11010001], .pop .de), ([0b11100001], .pop .hl),
    ([0b11110001], .popPsw), ([0b11001001], .ret), ([0b11011001], .retAlias), ([0b11101001], .pchl),
    ([0b11111001], .sphl), ([0b11100011], .xthl), ([0b11101011], .xchg),
    ([0b11000101], .push .bc), ([0b11010101], .push .de), ([0b11100101], .push .hl),
    ([0b11110101], .pushPsw)] := by
  decide

/-- Quadrant 11 (R70): jumps, calls and immediates. -/
theorem test_decode_quadrant_11_operands : Decodes .dd [
    ([0b11000010, 0x34, 0x12], .jnz 0x1234), ([0b11001010, 0x34, 0x12], .jz 0x1234),
    ([0b11010010, 0x34, 0x12], .jnc 0x1234), ([0b11011010, 0x34, 0x12], .jc 0x1234),
    ([0b11100010, 0x34, 0x12], .jpo 0x1234), ([0b11101010, 0x34, 0x12], .jpe 0x1234),
    ([0b11110010, 0x34, 0x12], .jp 0x1234), ([0b11111010, 0x34, 0x12], .jm 0x1234),
    ([0b11000011, 0x34, 0x12], .jmp 0x1234), ([0b11001011, 0x34, 0x12], .jmpAlias 0x1234),
    ([0b11000100, 0x34, 0x12], .cnz 0x1234), ([0b11001100, 0x34, 0x12], .cz 0x1234),
    ([0b11010100, 0x34, 0x12], .cnc 0x1234), ([0b11011100, 0x34, 0x12], .cc 0x1234),
    ([0b11100100, 0x34, 0x12], .cpo 0x1234), ([0b11101100, 0x34, 0x12], .cpe 0x1234),
    ([0b11110100, 0x34, 0x12], .cp 0x1234), ([0b11111100, 0x34, 0x12], .cm 0x1234),
    ([0b11001101, 0x34, 0x12], .call 0x1234),
    ([0b11000110, 0x5A], .adi 0x5A), ([0b11001110, 0x5A], .aci 0x5A), ([0b11010110, 0x5A], .sui 0x5A),
    ([0b11011110, 0x5A], .sbi 0x5A), ([0b11100110, 0x5A], .ani 0x5A), ([0b11101110, 0x5A], .xri 0x5A),
    ([0b11110110, 0x5A], .ori 0x5A), ([0b11111110, 0x5A], .cpi 0x5A)] := by
  decide

/-- The unimplemented rows (R72), one byte long each. -/
theorem test_decode_unimplemented : Decodes .dd [
    ([0b11000111], .unimplRst .f000), ([0b11010111], .unimplRst .f010),
    ([0b11111111], .unimplRst .f111), ([0b11010011], .unimplOut), ([0b11011011], .unimplIn),
    ([0b11110011], .unimplDi), ([0b11111011], .unimplEi), ([0b11101101], .unimpl0xED),
    ([0b11111101], .unimpl0xFD)] := by
  decide

/-- The CALL family (R71, R246) for each value of `CALL_ALIAS`: one CALL of three bytes. -/
theorem test_decode_call_family :
    Decodes .dd [([0b11011101, 0x34, 0x12], .callAlias 0x1234)] ∧
    Decodes .ed [([0b11101101, 0x34, 0x12], .callAlias 0x1234), ([0b11011101], .unimpl0xED),
      ([0b11111101], .unimpl0xFD)] ∧
    Decodes .fd [([0b11111101, 0x34, 0x12], .callAlias 0x1234), ([0b11011101], .unimpl0xFD),
      ([0b11101101], .unimpl0xED)] := by
  decide

/-- A list that ends inside an instruction is rejected (log 18); a longer one leaves the rest. -/
theorem test_decode_truncated_and_rest :
    decode [] = .rejected .truncated ∧ decode [0xC3, 0x34] = .rejected .truncated ∧
    decode [0x3E] = .rejected .truncated ∧
    decode [0x3E, 0x01, 0x76] = .instr (.mvi .a 0x01) [0x76] := by
  decide

/-- The words of an instruction, low byte first (R61, R66). -/
theorem test_encode :
    encode (.lxi .hl 0x1234) = [0x21, 0x34, 0x12] ∧ encode (.mvi .d 0x05) = [0x16, 0x05] ∧
    encode (.jnz 0x0006) = [0xC2, 0x06, 0x00] ∧ encode .pushPsw = [0xF5] := by
  decide

/-- The host's numbering: the first byte least significant, absent operand bytes zero. -/
theorem test_table_word :
    decodeTableWord 24 0x1234C3 = some (.jmp 0x1234) ∧ decodeTableWord 8 0xC3 = some (.jmp 0x0000) ∧
    decodeTableWord 16 0xFF3E = some (.mvi .a 0xFF) := by
  decide

/-! ## One step of each instruction, from 95_test_vectors.md -/

/-- T185. -/
theorem test_step_nop :
  Ran { State.reset with pc := 0x0010 } [0x00] fun t =>
    t.pc == 0x0011 := by decide

/-- T186, T192. -/
theorem test_step_nopAlias :
  (Ran { State.reset with a := 0x55, flags := packed 0x01 } [0x08] fun t =>
    t.pc == 0x0001) ∧
  (Ran { State.reset with a := 0x55, flags := packed 0x01 } [0x38] fun t =>
    t.pc == 0x0001) := by decide

/-- T10, T11. -/
theorem test_step_lxi :
  (Ran State.reset [0x01, 0x34, 0x12] fun t =>
    t.b == 0x12 && t.c == 0x34 && t.pc == 0x0003) ∧
  (Ran State.reset [0x31, 0x00, 0x24] fun t =>
    t.sp == 0x2400 && t.pc == 0x0003) := by decide

/-- T18. -/
theorem test_step_stax :
  Ran { State.reset with a := 0x99, b := 0x20, c := 0x01 } [0x02] fun t =>
    t.pc == 0x0001 && readMem t 0x2001 == 0x99 := by decide

/-- T17. -/
theorem test_step_ldax :
  Ran { State.reset with d := 0x20, e := 0x00, mem := [(0x2000, 0x77)] } [0x1A] fun t =>
    t.a == 0x77 && t.pc == 0x0001 := by decide

/-- T16. -/
theorem test_step_shld :
  Ran { State.reset with h := 0x12, l := 0x34, pc := 0x0100 } [0x22, 0xFF, 0xFF] fun t =>
    t.pc == 0x0103 && readMem t 0x0000 == 0x12 && readMem t 0xFFFF == 0x34 := by decide

/-- T15. -/
theorem test_step_lhld :
  Ran { State.reset with mem := [(0xFFFF, 0x34)] } [0x2A, 0xFF, 0xFF] fun t =>
    t.h == 0x2A && t.l == 0x34 && t.pc == 0x0003 := by decide

/-- T14. -/
theorem test_step_sta :
  Ran { State.reset with a := 0xC9 } [0x32, 0x03, 0x00] fun t =>
    t.pc == 0x0003 && readMem t 0x0003 == 0xC9 := by decide

/-- T12. -/
theorem test_step_lda :
  Ran { State.reset with mem := [(0x2000, 0x5A)] } [0x3A, 0x00, 0x20] fun t =>
    t.a == 0x5A && t.pc == 0x0003 := by decide

/-- T49, T50. -/
theorem test_step_inx :
  (Ran { State.reset with h := 0xFF, l := 0xFF } [0x23] fun t =>
    t.h == 0x00 && t.l == 0x00 && t.pc == 0x0001 && t.flags == packed 0x00) ∧
  (Ran { State.reset with sp := 0xFFFF } [0x33] fun t =>
    t.sp == 0x0000 && t.pc == 0x0001 && t.flags == packed 0x00) := by decide

/-- T51, T52. -/
theorem test_step_dcx :
  (Ran { State.reset with b := 0x00, c := 0x00 } [0x0B] fun t =>
    t.b == 0xFF && t.c == 0xFF && t.pc == 0x0001 && t.flags == packed 0x00) ∧
  (Ran { State.reset with h := 0x98, l := 0x00 } [0x2B] fun t =>
    t.h == 0x97 && t.l == 0xFF && t.pc == 0x0001 && t.flags == packed 0x00) := by decide

/-- T54, T56. -/
theorem test_step_dad :
  (Ran { State.reset with
        d := 0x80, e := 0x00, h := 0x80, l := 0x00, flags := packed 0x40 } [0x19] fun t =>
    t.h == 0x00 && t.pc == 0x0001 && t.flags == packed 0x41) ∧
  (Ran { State.reset with h := 0x00, l := 0x01, sp := 0xFFFF } [0x39] fun t =>
    t.l == 0x00 && t.pc == 0x0001 && t.flags == packed 0x01) := by decide

/-- T41, T43. -/
theorem test_step_inr :
  (Ran { State.reset with a := 0xFF } [0x3C] fun t =>
    t.a == 0x00 && t.pc == 0x0001 && t.flags == packed 0x54) ∧
  (Ran { State.reset with h := 0x20, l := 0x00, mem := [(0x2000, 0x0F)] } [0x34] fun t =>
    t.pc == 0x0001 && t.flags == packed 0x10 && readMem t 0x2000 == 0x10) := by decide

/-- T46, T47. -/
theorem test_step_dcr :
  (Ran { State.reset with e := 0x10, flags := packed 0x01 } [0x1D] fun t =>
    t.e == 0x0F && t.pc == 0x0001 && t.flags == packed 0x15) ∧
  (Ran { State.reset with h := 0x20, l := 0x00, mem := [(0x2000, 0x80)] } [0x35] fun t =>
    t.pc == 0x0001 && t.flags == packed 0x10 && readMem t 0x2000 == 0x7F) := by decide

/-- T7, T8. -/
theorem test_step_mvi :
  (Ran State.reset [0x0E, 0xFF] fun t =>
    t.c == 0xFF && t.pc == 0x0002) ∧
  (Ran { State.reset with h := 0x20, l := 0x10 } [0x36, 0xAB] fun t =>
    t.pc == 0x0002 && readMem t 0x2010 == 0xAB) := by decide

/-- T86. -/
theorem test_step_rlc :
  Ran { State.reset with a := 0xF2, flags := packed 0x54 } [0x07] fun t =>
    t.a == 0xE5 && t.pc == 0x0001 && t.flags == packed 0x55 := by decide

/-- T88. -/
theorem test_step_rrc :
  Ran { State.reset with a := 0x01 } [0x0F] fun t =>
    t.a == 0x80 && t.pc == 0x0001 && t.flags == packed 0x01 := by decide

/-- T91. -/
theorem test_step_ral :
  Ran { State.reset with a := 0x80 } [0x17] fun t =>
    t.a == 0x00 && t.pc == 0x0001 && t.flags == packed 0x01 := by decide

/-- T90. -/
theorem test_step_rar :
  Ran { State.reset with a := 0x6A, flags := packed 0x01 } [0x1F] fun t =>
    t.a == 0xB5 && t.pc == 0x0001 && t.flags == packed 0x00 := by decide

/-- T57, T64. -/
theorem test_step_daa :
  (Ran { State.reset with a := 0x9B } [0x27] fun t =>
    t.a == 0x01 && t.pc == 0x0001 && t.flags == packed 0x11) ∧
  (Ran { State.reset with a := 0x33, flags := packed 0x11 } [0x27] fun t =>
    t.a == 0x99 && t.pc == 0x0001 && t.flags == packed 0x85) := by decide

/-- T92. -/
theorem test_step_cma :
  Ran { State.reset with a := 0x51, flags := packed 0x41 } [0x2F] fun t =>
    t.a == 0xAE && t.pc == 0x0001 && t.flags == packed 0x41 := by decide

/-- T95. -/
theorem test_step_stc :
  Ran State.reset [0x37] fun t =>
    t.pc == 0x0001 && t.flags == packed 0x01 := by decide

/-- T94. -/
theorem test_step_cmc :
  Ran { State.reset with flags := packed 0xD5 } [0x3F] fun t =>
    t.pc == 0x0001 && t.flags == packed 0xD4 := by decide

/-- T4, T5. -/
theorem test_step_mov :
  (Ran { State.reset with h := 0x20, l := 0x10, mem := [(0x2010, 0x30)] } [0x66] fun t =>
    t.h == 0x30 && t.pc == 0x0001) ∧
  (Ran { State.reset with h := 0x20, l := 0x10 } [0x74] fun t =>
    t.pc == 0x0001 && readMem t 0x2010 == 0x20) := by decide

/-- T193. -/
theorem test_step_hlt :
  Ran { State.reset with pc := 0x000E } [0x76] fun t =>
    t.pc == 0x000F && t.halted == true := by decide

/-- T21, T25. -/
theorem test_step_add :
  (Ran { State.reset with a := 0xFF, c := 0x01 } [0x81] fun t =>
    t.a == 0x00 && t.pc == 0x0001 && t.flags == packed 0x55) ∧
  (Ran { State.reset with
        a := 0x10, h := 0x20, l := 0x00, mem := [(0x2000, 0x7F)] } [0x86] fun t =>
    t.a == 0x8F && t.pc == 0x0001 && t.flags == packed 0x80) := by decide

/-- T27, T28. -/
theorem test_step_adc :
  (Ran { State.reset with a := 0xFF, b := 0x00, flags := packed 0x01 } [0x88] fun t =>
    t.a == 0x00 && t.pc == 0x0001 && t.flags == packed 0x55) ∧
  (Ran { State.reset with a := 0x0E, b := 0x01, flags := packed 0x01 } [0x88] fun t =>
    t.a == 0x10 && t.pc == 0x0001 && t.flags == packed 0x10) := by decide

/-- T30, T32. -/
theorem test_step_sub :
  (Ran { State.reset with a := 0x00, c := 0x01 } [0x91] fun t =>
    t.a == 0xFF && t.pc == 0x0001 && t.flags == packed 0x95) ∧
  (Ran { State.reset with a := 0x55, flags := packed 0x11 } [0x97] fun t =>
    t.a == 0x00 && t.pc == 0x0001 && t.flags == packed 0x44) := by decide

/-- T33, T34. -/
theorem test_step_sbb :
  (Ran { State.reset with a := 0x04, l := 0x02, flags := packed 0x01 } [0x9D] fun t =>
    t.a == 0x01 && t.pc == 0x0001 && t.flags == packed 0x00) ∧
  (Ran { State.reset with a := 0x00, b := 0xFF, flags := packed 0x01 } [0x98] fun t =>
    t.pc == 0x0001 && t.flags == packed 0x55) := by decide

/-- T70. -/
theorem test_step_ana :
  Ran { State.reset with a := 0xFC, c := 0x0F, flags := packed 0x11 } [0xA1] fun t =>
    t.a == 0x0C && t.pc == 0x0001 && t.flags == packed 0x04 := by decide

/-- T72. -/
theorem test_step_xra :
  Ran { State.reset with a := 0x5C, flags := packed 0x01 } [0xAF] fun t =>
    t.a == 0x00 && t.pc == 0x0001 && t.flags == packed 0x44 := by decide

/-- T74. -/
theorem test_step_ora :
  Ran { State.reset with a := 0x33, c := 0x0F, flags := packed 0x11 } [0xB1] fun t =>
    t.a == 0x3F && t.pc == 0x0001 && t.flags == packed 0x04 := by decide

/-- T79, T80. -/
theorem test_step_cmp :
  (Ran { State.reset with a := 0xE5, e := 0x05 } [0xBB] fun t =>
    t.pc == 0x0001 && t.flags == packed 0x80) ∧
  (Ran { State.reset with
        a := 0x80, h := 0x20, l := 0x00, mem := [(0x2000, 0x01)] } [0xBE] fun t =>
    t.pc == 0x0001 && t.flags == packed 0x10) := by decide

/-- T142, T143. -/
theorem test_step_rnz :
  (Ran { State.reset with
        sp := 0xFFFD, pc := 0x1000, mem := [(0xFFFD, 0x06)] } [0xC0] fun t =>
    t.sp == 0xFFFF && t.pc == 0x0006) ∧
  (Ran { State.reset with
        sp := 0xFFFD, pc := 0x1000, flags := packed 0x40, mem := [(0xFFFD, 0x06)] } [0xC0] fun t =>
    t.pc == 0x1001 && t.sp == 0xFFFD) := by decide

/-- T144, T145. -/
theorem test_step_rz :
  (Ran { State.reset with
        sp := 0xFFFD, pc := 0x1000, flags := packed 0x40, mem := [(0xFFFD, 0x06)] } [0xC8] fun t =>
    t.sp == 0xFFFF && t.pc == 0x0006) ∧
  (Ran { State.reset with
        sp := 0xFFFD, pc := 0x1000, mem := [(0xFFFD, 0x06)] } [0xC8] fun t =>
    t.pc == 0x1001 && t.sp == 0xFFFD) := by decide

/-- T146, T147. -/
theorem test_step_rnc :
  (Ran { State.reset with
        sp := 0xFFFD, pc := 0x1000, mem := [(0xFFFD, 0x06)] } [0xD0] fun t =>
    t.sp == 0xFFFF && t.pc == 0x0006) ∧
  (Ran { State.reset with
        sp := 0xFFFD, pc := 0x1000, flags := packed 0x01, mem := [(0xFFFD, 0x06)] } [0xD0] fun t =>
    t.pc == 0x1001 && t.sp == 0xFFFD) := by decide

/-- T148, T149. -/
theorem test_step_rc :
  (Ran { State.reset with
        sp := 0xFFFD, pc := 0x1000, flags := packed 0x01, mem := [(0xFFFD, 0x06)] } [0xD8] fun t =>
    t.sp == 0xFFFF && t.pc == 0x0006) ∧
  (Ran { State.reset with
        sp := 0xFFFD, pc := 0x1000, mem := [(0xFFFD, 0x06)] } [0xD8] fun t =>
    t.pc == 0x1001 && t.sp == 0xFFFD) := by decide

/-- T150, T151. -/
theorem test_step_rpo :
  (Ran { State.reset with
        sp := 0xFFFD, pc := 0x1000, mem := [(0xFFFD, 0x06)] } [0xE0] fun t =>
    t.sp == 0xFFFF && t.pc == 0x0006) ∧
  (Ran { State.reset with
        sp := 0xFFFD, pc := 0x1000, flags := packed 0x04, mem := [(0xFFFD, 0x06)] } [0xE0] fun t =>
    t.pc == 0x1001 && t.sp == 0xFFFD) := by decide

/-- T152, T153. -/
theorem test_step_rpe :
  (Ran { State.reset with
        sp := 0xFFFD, pc := 0x1000, flags := packed 0x04, mem := [(0xFFFD, 0x06)] } [0xE8] fun t =>
    t.sp == 0xFFFF && t.pc == 0x0006) ∧
  (Ran { State.reset with
        sp := 0xFFFD, pc := 0x1000, mem := [(0xFFFD, 0x06)] } [0xE8] fun t =>
    t.pc == 0x1001 && t.sp == 0xFFFD) := by decide

/-- T154, T155. -/
theorem test_step_rp :
  (Ran { State.reset with
        sp := 0xFFFD, pc := 0x1000, mem := [(0xFFFD, 0x06)] } [0xF0] fun t =>
    t.sp == 0xFFFF && t.pc == 0x0006) ∧
  (Ran { State.reset with
        sp := 0xFFFD, pc := 0x1000, flags := packed 0x80, mem := [(0xFFFD, 0x06)] } [0xF0] fun t =>
    t.pc == 0x1001 && t.sp == 0xFFFD) := by decide

/-- T156, T157. -/
theorem test_step_rm :
  (Ran { State.reset with
        sp := 0xFFFD, pc := 0x1000, flags := packed 0x80, mem := [(0xFFFD, 0x06)] } [0xF8] fun t =>
    t.sp == 0xFFFF && t.pc == 0x0006) ∧
  (Ran { State.reset with
        sp := 0xFFFD, pc := 0x1000, mem := [(0xFFFD, 0x06)] } [0xF8] fun t =>
    t.pc == 0x1001 && t.sp == 0xFFFD) := by decide

/-- T103, T104. -/
theorem test_step_jnz :
  (Ran { State.reset with pc := 0x0200 } [0xC2, 0x00, 0x10] fun t =>
    t.pc == 0x1000) ∧
  (Ran { State.reset with pc := 0x0200, flags := packed 0x40 } [0xC2, 0x00, 0x10] fun t =>
    t.pc == 0x0203) := by decide

/-- T105, T106. -/
theorem test_step_jz :
  (Ran { State.reset with pc := 0x0200, flags := packed 0x40 } [0xCA, 0x00, 0x10] fun t =>
    t.pc == 0x1000) ∧
  (Ran { State.reset with pc := 0x0200 } [0xCA, 0x00, 0x10] fun t =>
    t.pc == 0x0203) := by decide

/-- T107, T108. -/
theorem test_step_jnc :
  (Ran { State.reset with pc := 0x0200 } [0xD2, 0x00, 0x10] fun t =>
    t.pc == 0x1000) ∧
  (Ran { State.reset with pc := 0x0200, flags := packed 0x01 } [0xD2, 0x00, 0x10] fun t =>
    t.pc == 0x0203) := by decide

/-- T109, T110. -/
theorem test_step_jc :
  (Ran { State.reset with pc := 0x0200, flags := packed 0x01 } [0xDA, 0x00, 0x10] fun t =>
    t.pc == 0x1000) ∧
  (Ran { State.reset with pc := 0x0200 } [0xDA, 0x00, 0x10] fun t =>
    t.pc == 0x0203) := by decide

/-- T111, T112. -/
theorem test_step_jpo :
  (Ran { State.reset with pc := 0x0200 } [0xE2, 0x00, 0x10] fun t =>
    t.pc == 0x1000) ∧
  (Ran { State.reset with pc := 0x0200, flags := packed 0x04 } [0xE2, 0x00, 0x10] fun t =>
    t.pc == 0x0203) := by decide

/-- T113, T114. -/
theorem test_step_jpe :
  (Ran { State.reset with pc := 0x0200, flags := packed 0x04 } [0xEA, 0x00, 0x10] fun t =>
    t.pc == 0x1000) ∧
  (Ran { State.reset with pc := 0x0200 } [0xEA, 0x00, 0x10] fun t =>
    t.pc == 0x0203) := by decide

/-- T115, T116. -/
theorem test_step_jp :
  (Ran { State.reset with pc := 0x0200 } [0xF2, 0x00, 0x10] fun t =>
    t.pc == 0x1000) ∧
  (Ran { State.reset with pc := 0x0200, flags := packed 0x80 } [0xF2, 0x00, 0x10] fun t =>
    t.pc == 0x0203) := by decide

/-- T117, T118. -/
theorem test_step_jm :
  (Ran { State.reset with pc := 0x0200, flags := packed 0x80 } [0xFA, 0x00, 0x10] fun t =>
    t.pc == 0x1000) ∧
  (Ran { State.reset with pc := 0x0200 } [0xFA, 0x00, 0x10] fun t =>
    t.pc == 0x0203) := by decide

/-- T123, T124. -/
theorem test_step_cnz :
  (Ran { State.reset with pc := 0x0200 } [0xC4, 0x00, 0x10] fun t =>
    t.sp == 0xFFFD && t.pc == 0x1000 && readMem t 0xFFFD == 0x03 && readMem t 0xFFFE == 0x02) ∧
  (Ran { State.reset with pc := 0x0200, flags := packed 0x40 } [0xC4, 0x00, 0x10] fun t =>
    t.pc == 0x0203 && t.sp == 0xFFFF) := by decide

/-- T125, T126. -/
theorem test_step_cz :
  (Ran { State.reset with pc := 0x0200, flags := packed 0x40 } [0xCC, 0x00, 0x10] fun t =>
    t.sp == 0xFFFD && t.pc == 0x1000 && readMem t 0xFFFD == 0x03 && readMem t 0xFFFE == 0x02) ∧
  (Ran { State.reset with pc := 0x0200 } [0xCC, 0x00, 0x10] fun t =>
    t.pc == 0x0203 && t.sp == 0xFFFF) := by decide

/-- T127, T128. -/
theorem test_step_cnc :
  (Ran { State.reset with pc := 0x0200 } [0xD4, 0x00, 0x10] fun t =>
    t.sp == 0xFFFD && t.pc == 0x1000 && readMem t 0xFFFD == 0x03 && readMem t 0xFFFE == 0x02) ∧
  (Ran { State.reset with pc := 0x0200, flags := packed 0x01 } [0xD4, 0x00, 0x10] fun t =>
    t.pc == 0x0203 && t.sp == 0xFFFF) := by decide

/-- T129, T130. -/
theorem test_step_cc :
  (Ran { State.reset with pc := 0x0200, flags := packed 0x01 } [0xDC, 0x00, 0x10] fun t =>
    t.sp == 0xFFFD && t.pc == 0x1000 && readMem t 0xFFFD == 0x03 && readMem t 0xFFFE == 0x02) ∧
  (Ran { State.reset with pc := 0x0200 } [0xDC, 0x00, 0x10] fun t =>
    t.pc == 0x0203 && t.sp == 0xFFFF) := by decide

/-- T131, T132. -/
theorem test_step_cpo :
  (Ran { State.reset with pc := 0x0200 } [0xE4, 0x00, 0x10] fun t =>
    t.sp == 0xFFFD && t.pc == 0x1000 && readMem t 0xFFFD == 0x03 && readMem t 0xFFFE == 0x02) ∧
  (Ran { State.reset with pc := 0x0200, flags := packed 0x04 } [0xE4, 0x00, 0x10] fun t =>
    t.pc == 0x0203 && t.sp == 0xFFFF) := by decide

/-- T133, T134. -/
theorem test_step_cpe :
  (Ran { State.reset with pc := 0x0200, flags := packed 0x04 } [0xEC, 0x00, 0x10] fun t =>
    t.sp == 0xFFFD && t.pc == 0x1000 && readMem t 0xFFFD == 0x03 && readMem t 0xFFFE == 0x02) ∧
  (Ran { State.reset with pc := 0x0200 } [0xEC, 0x00, 0x10] fun t =>
    t.pc == 0x0203 && t.sp == 0xFFFF) := by decide

/-- T135, T136. -/
theorem test_step_cp :
  (Ran { State.reset with pc := 0x0200 } [0xF4, 0x00, 0x10] fun t =>
    t.sp == 0xFFFD && t.pc == 0x1000 && readMem t 0xFFFD == 0x03 && readMem t 0xFFFE == 0x02) ∧
  (Ran { State.reset with pc := 0x0200, flags := packed 0x80 } [0xF4, 0x00, 0x10] fun t =>
    t.pc == 0x0203 && t.sp == 0xFFFF) := by decide

/-- T137, T138. -/
theorem test_step_cm :
  (Ran { State.reset with pc := 0x0200, flags := packed 0x80 } [0xFC, 0x00, 0x10] fun t =>
    t.sp == 0xFFFD && t.pc == 0x1000 && readMem t 0xFFFD == 0x03 && readMem t 0xFFFE == 0x02) ∧
  (Ran { State.reset with pc := 0x0200 } [0xFC, 0x00, 0x10] fun t =>
    t.pc == 0x0203 && t.sp == 0xFFFF) := by decide

/-- T176, T177. -/
theorem test_step_pop :
  (Ran { State.reset with
        sp := 0x2000, mem := [(0x2000, 0x34), (0x2001, 0x12)] } [0xC1] fun t =>
    t.b == 0x12 && t.c == 0x34 && t.sp == 0x2002 && t.pc == 0x0001) ∧
  (Ran { State.reset with mem := [(0xFFFF, 0x77)] } [0xE1] fun t =>
    t.h == 0xE1 && t.l == 0x77 && t.sp == 0x0001 && t.pc == 0x0001) := by decide

/-- T178, T179. -/
theorem test_step_popPsw :
  (Ran { State.reset with
        sp := 0x2000, mem := [(0x2000, 0xFF), (0x2001, 0x5A)] } [0xF1] fun t =>
    t.a == 0x5A && t.sp == 0x2002 && t.pc == 0x0001 && t.flags == packed 0xD5) ∧
  (Ran { State.reset with
        sp := 0x2000, flags := packed 0xD5, mem := [(0x2000, 0x2A), (0x2001, 0x5A)] } [0xF1] fun t =>
    t.a == 0x5A && t.sp == 0x2002 && t.pc == 0x0001 && t.flags == packed 0x00) := by decide

/-- T171, T172. -/
theorem test_step_push :
  (Ran { State.reset with d := 0xDE, e := 0xAD, sp := 0x0000, pc := 0x0100 } [0xD5] fun t =>
    t.sp == 0xFFFE && t.pc == 0x0101 && readMem t 0xFFFE == 0xAD && readMem t 0xFFFF == 0xDE) ∧
  (Ran { State.reset with d := 0xDE, e := 0xAD, sp := 0x0001, pc := 0x0100 } [0xD5] fun t =>
    t.sp == 0xFFFF && t.pc == 0x0101 && readMem t 0x0000 == 0xDE && readMem t 0xFFFF == 0xAD) := by decide

/-- T173, T174. -/
theorem test_step_pushPsw :
  (Ran { State.reset with a := 0xAB, flags := packed 0x91 } [0xF5] fun t =>
    t.sp == 0xFFFD && t.pc == 0x0001 && readMem t 0xFFFD == 0x91 && readMem t 0xFFFE == 0xAB) ∧
  (Ran { State.reset with a := 0x00, flags := packed 0xD5 } [0xF5] fun t =>
    t.sp == 0xFFFD && t.pc == 0x0001 && readMem t 0xFFFD == 0xD5) := by decide

/-- T100, T221. -/
theorem test_step_jmp :
  (Ran State.reset [0xC3, 0x34, 0x12] fun t =>
    t.pc == 0x1234) ∧
  (Ran { State.reset with
        pc := 0xFFFF, mem := [(0x0000, 0x34), (0x0001, 0x12)] } [0xC3] fun t =>
    t.pc == 0x1234) := by decide

/-- T101. -/
theorem test_step_jmpAlias :
  Ran State.reset [0xCB, 0x34, 0x12] fun t =>
    t.pc == 0x1234 := by decide

/-- T121, T122. -/
theorem test_step_call :
  (Ran { State.reset with sp := 0x0001, pc := 0x0200 } [0xCD, 0x00, 0x10] fun t =>
    t.sp == 0xFFFF && t.pc == 0x1000 && readMem t 0x0000 == 0x02 && readMem t 0xFFFF == 0x03) ∧
  (Ran { State.reset with sp := 0x0203, pc := 0x0200 } [0xCD, 0x00, 0x10] fun t =>
    t.sp == 0x0201 && t.pc == 0x1000 && readMem t 0x0201 == 0x03 && readMem t 0x0202 == 0x02) := by decide

/-- T120. -/
theorem test_step_callAlias :
  Ran { State.reset with pc := 0x0003 } [0xDD, 0x00, 0x10] fun t =>
    t.sp == 0xFFFD && t.pc == 0x1000 && readMem t 0xFFFD == 0x06 := by decide

/-- T139, T141. -/
theorem test_step_ret :
  (Ran { State.reset with
        sp := 0xFFFD, pc := 0x1000, mem := [(0xFFFD, 0x06)] } [0xC9] fun t =>
    t.sp == 0xFFFF && t.pc == 0x0006) ∧
  (Ran { State.reset with mem := [(0xFFFF, 0x34)] } [0xC9] fun t =>
    t.sp == 0x0001 && t.pc == 0xC934) := by decide

/-- T140. -/
theorem test_step_retAlias :
  Ran { State.reset with
        sp := 0xFFFD, pc := 0x1000, mem := [(0xFFFD, 0x06)] } [0xD9] fun t =>
    t.sp == 0xFFFF && t.pc == 0x0006 := by decide

/-- T36. -/
theorem test_step_adi :
  Ran { State.reset with a := 0x14 } [0xC6, 0x42] fun t =>
    t.a == 0x56 && t.pc == 0x0002 && t.flags == packed 0x04 := by decide

/-- T37. -/
theorem test_step_aci :
  Ran { State.reset with a := 0x56, flags := packed 0x01 } [0xCE, 0xBE] fun t =>
    t.a == 0x15 && t.pc == 0x0002 && t.flags == packed 0x11 := by decide

/-- T38. -/
theorem test_step_sui :
  Ran { State.reset with a := 0x00 } [0xD6, 0x01] fun t =>
    t.a == 0xFF && t.pc == 0x0002 && t.flags == packed 0x95 := by decide

/-- T39. -/
theorem test_step_sbi :
  Ran { State.reset with a := 0x00, flags := packed 0x01 } [0xDE, 0x01] fun t =>
    t.a == 0xFE && t.pc == 0x0002 && t.flags == packed 0x91 := by decide

/-- T81. -/
theorem test_step_ani :
  Ran { State.reset with a := 0x3A } [0xE6, 0x0F] fun t =>
    t.a == 0x0A && t.pc == 0x0002 && t.flags == packed 0x04 := by decide

/-- T82. -/
theorem test_step_xri :
  Ran { State.reset with a := 0x3B } [0xEE, 0x81] fun t =>
    t.a == 0xBA && t.pc == 0x0002 && t.flags == packed 0x80 := by decide

/-- T83. -/
theorem test_step_ori :
  Ran { State.reset with a := 0xB5 } [0xF6, 0x0F] fun t =>
    t.a == 0xBF && t.pc == 0x0002 && t.flags == packed 0x80 := by decide

/-- T85. -/
theorem test_step_cpi :
  Ran { State.reset with a := 0x00 } [0xFE, 0x01] fun t =>
    t.pc == 0x0002 && t.flags == packed 0x95 := by decide

/-- T182, T183. -/
theorem test_step_xthl :
  (Ran { State.reset with
        h := 0x0B, l := 0x3C, sp := 0x2000, mem := [(0x2000, 0xF0), (0x2001, 0x0D)] } [0xE3] fun t =>
    t.h == 0x0D && t.l == 0xF0 && t.pc == 0x0001 && readMem t 0x2000 == 0x3C &&
    readMem t 0x2001 == 0x0B) ∧
  (Ran { State.reset with
        h := 0x12, l := 0x34, pc := 0x0100, mem := [(0xFFFF, 0x77)] } [0xE3] fun t =>
    t.h == 0x00 && t.l == 0x77 && t.pc == 0x0101 && readMem t 0x0000 == 0x12 &&
    readMem t 0xFFFF == 0x34) := by decide

/-- T158. -/
theorem test_step_pchl :
  Ran { State.reset with h := 0x41, l := 0x3E } [0xE9] fun t =>
    t.pc == 0x413E := by decide

/-- T19. -/
theorem test_step_xchg :
  Ran { State.reset with d := 0x11, e := 0x22, h := 0x33, l := 0x44 } [0xEB] fun t =>
    t.d == 0x33 && t.e == 0x44 && t.h == 0x11 && t.l == 0x22 && t.pc == 0x0001 := by decide

/-- T184. -/
theorem test_step_sphl :
  Ran { State.reset with h := 0x50, l := 0x6C } [0xF9] fun t =>
    t.sp == 0x506C && t.pc == 0x0001 := by decide

/-- T195, T202. -/
theorem test_step_unimplRst :
  (Ran { State.reset with a := 0x55, sp := 0x2000, pc := 0x0300 } [0xC7] fun t =>
    t.pc == 0x0301 && t.sp == 0x2000) ∧
  (Ran { State.reset with a := 0x55, sp := 0x2000, pc := 0x0300 } [0xFF] fun t =>
    t.pc == 0x0301 && t.sp == 0x2000) := by decide

/-- T203. -/
theorem test_step_unimplOut :
  Ran { State.reset with a := 0x55 } [0xD3, 0x76] fun t =>
    t.pc == 0x0001 && t.sp == 0xFFFF := by decide

/-- T205 (its first step). -/
theorem test_step_unimplIn :
  Ran { State.reset with a := 0x55 } [0xDB, 0x3E, 0x76] fun t =>
    t.a == 0x55 && t.pc == 0x0001 := by decide

/-- T207. -/
theorem test_step_unimplDi :
  Ran State.reset [0xF3] fun t =>
    t.pc == 0x0001 && t.sp == 0xFFFF := by decide

/-- T206. -/
theorem test_step_unimplEi :
  Ran State.reset [0xFB] fun t =>
    t.pc == 0x0001 && t.sp == 0xFFFF := by decide

/-- T208. -/
theorem test_step_unimpl0xED :
  Ran { State.reset with sp := 0x2000 } [0xED, 0x00, 0x10] fun t =>
    t.pc == 0x0001 && t.sp == 0x2000 := by decide

/-- T209. -/
theorem test_step_unimpl0xFD :
  Ran { State.reset with sp := 0x2000 } [0xFD, 0x00, 0x10] fun t =>
    t.pc == 0x0001 && t.sp == 0x2000 := by decide

/-! ## The step, from the whole machine -/

/-- T224 and R280: after reset an empty memory is a NOP at 0x0000. -/
theorem test_step_from_reset : step State.reset = .next { State.reset with pc := 0x0001 } := rfl

/-- A step while halted changes nothing (T194's second step, R96). -/
theorem test_step_halted :
    step { State.reset with halted := true, pc := 0x0001, mem := [(0x0001, 0x3C)] } =
      .next { State.reset with halted := true, pc := 0x0001, mem := [(0x0001, 0x3C)] } := rfl

/-- `withFetchWord` puts the instruction where the next step fetches. -/
theorem test_with_fetch_word :
    step ((State.reset.withFetchWord 16 0xA516)) =
      .next { State.reset with d := 0xA5, pc := 0x0002, mem := [(0, 0x16), (1, 0xA5)] } := rfl

/-- Reset from a state in use (R280, R281): registers at their reset values, memory kept. -/
theorem test_reset :
    hostAct .dd .reset { State.reset with a := 0x01, pc := 0x1234, sp := 0x0010, halted := true,
                                          flags := packed 0xD5, mem := [(5, 7)] } =
      .next { State.reset with mem := [(5, 7)] } := rfl

/-- S2 of 95_test_vectors.md: with S = AC = P = 1 and CY = 0 the toggle sets CY and keeps the rest. -/
theorem test_host_toggle_carry :
    hostAct .dd .toggleCarry { State.reset with flags := packed 0x94 } =
      .next { State.reset with flags := packed 0x95 } := rfl

/-- S3 of 95_test_vectors.md: PSW with Z and P set has the low byte 68. -/
theorem test_psw_low_byte :
    readPsw { State.reset with a := 0x0D, flags := packed 0x44 } = 0x0D44 := by
  decide

/-- The canonical form: writing what an unlisted address reads as removes the entry. -/
theorem test_memory_canonical :
    (writeMem (writeMem (writeMem State.reset 0xFFFF 0x01) 0x0003 0x02) 0xFFFF 0x00).mem = [(3, 2)] ∧
    Memory.wf [(3, 2), (0xFFFF, 1)] = true ∧ Memory.wf [(3, 0)] = false ∧
    Memory.wf [(4, 2), (3, 1)] = false ∧ Memory.wf [(3, 2), (3, 1)] = false ∧
    Memory.wf [(65536, 1)] = false := by
  decide

/-! ## Witnesses for the hypotheses of the obligations

Each is a concrete instance that meets all the hypotheses of the obligation it is named after, one for
each clause that has hypotheses of its own. -/

/-- A small state in use: HL = 0x2010, SP at the top of memory, some bytes set. -/
def busy : State :=
  { State.reset with a := 0x38, b := 0x12, h := 0x20, l := 0x10, pc := 0x0100, sp := 0xFFFF,
                     mem := [(0x0000, 0x34), (0x2010, 0x45), (0xFFFF, 0x12)] }

theorem witness_DecodeOfEncodeIsIdentity :
    Instr.wf (.mov .m .a) = true ∧ Instr.wf (.nopAlias .f111) = true ∧
    Instr.wf (.lxi .sp 0xFFFF) = true := by
  decide

theorem witness_EncodeOfDecodeIsIdentity :
    decodeWith .fd [0xFD, 0x34, 0x12, 0x76] = .instr (.callAlias 0x1234) [0x76] := by
  decide

theorem witness_MovQuadrantDecodes :
    (0x40 ≤ (0x76 : Byte).toNat ∧ (0x76 : Byte).toNat < 0x80 ∧ (0x76 : Byte) = 0x76) ∧
    (0x40 ≤ (0x40 : Byte).toNat ∧ (0x40 : Byte).toNat < 0x80 ∧ (0x40 : Byte) ≠ 0x76) ∧
    (0x40 ≤ (0x7F : Byte).toNat ∧ (0x7F : Byte).toNat < 0x80 ∧ (0x7F : Byte) ≠ 0x76) := by
  decide

theorem witness_AluQuadrantDecodes :
    (0x80 ≤ (0x80 : Byte).toNat ∧ (0x80 : Byte).toNat < 0xC0) ∧
    (0x80 ≤ (0xBF : Byte).toNat ∧ (0xBF : Byte).toNat < 0xC0) := by
  decide

theorem witness_CallAliasIsTheOneCallByte :
    CallAlias.ed = CallAlias.ed ∧ CallAlias.dd ≠ CallAlias.ed := by
  decide

theorem witness_FirstByteFixesTheLength :
    decodeWith .dd [0xCD, 0x34] = .rejected .truncated ∧
    [(0x34 : Byte)].length + 1 < (decodeOp .dd 0xCD 0 0).length := by
  decide

theorem witness_StepRunsTheInstructionAtPc :
    (Instr.wf (.jmp 0x1234) = true ∧
      ({ busy with pc := 0xFFFF, mem := [(0, 0x34), (1, 0x12), (0xFFFF, 0xC3)] } : State).halted =
        false ∧
      ∀ k v, (encodeWith .dd (.jmp 0x1234))[k]? = some v →
        readMem { busy with pc := 0xFFFF, mem := [(0, 0x34), (1, 0x12), (0xFFFF, 0xC3)] }
          (0xFFFF + BitVec.ofNat 16 k) = v) ∧
    ({ busy with halted := true } : State).halted = true := by
  refine ⟨⟨rfl, rfl, ?_⟩, rfl⟩
  intro k v h
  match k, h with
  | 0, h | 1, h | 2, h => simp [encodeWith, operandBytes] at h; subst h; decide

theorem witness_HaltedRunChangesNothing : ({ busy with halted := true } : State).halted = true := rfl

theorem witness_EveryStepCompletes : busy.halted = false := rfl

theorem witness_ControlFsmTransitions :
    (({ busy with mem := [(0x0100, 0x76)] } : State).halted = false ∧
      readMem { busy with mem := [(0x0100, 0x76)] } 0x0100 = 0x76) ∧
    ({ busy with halted := true } : State).halted = true := by
  decide

theorem witness_OnlyHltWritesHalted : Instr.hlt = Instr.hlt ∧ Instr.nop ≠ Instr.hlt := by
  decide

theorem witness_WriteThenReadMemory : (0x0000 : Word) ≠ 0xFFFF := by decide

theorem witness_MemoryReadsLatestWriteOrZero :
    State.PowerOn { busy with mem := [] } ∧
    latestWrite [(0xFFFF, 0x01), (0x0000, 0x02), (0xFFFF, 0x03)] 0xFFFF = some 0x03 ∧
    latestWrite [(0xFFFF, 0x01), (0x0000, 0x02), (0xFFFF, 0x03)] 0x0001 = none ∧ Reg.a ≠ Reg.m := by
  refine ⟨rfl, ?_, ?_, ?_⟩ <;> decide

theorem witness_StackIsLastInFirstOut :
    [(0x1234 : Word), 0xABCD].length ≤ 32768 ∧ (List.replicate 32768 (0x1234 : Word)).length ≤ 32768 :=
  ⟨by decide, by rw [List.length_replicate]⟩

theorem witness_RegisterWritesAreIndependent :
    Reg.a ≠ Reg.m ∧ Reg.m = Reg.m ∧ Reg.b ≠ Reg.m ∧ Reg.b ∉ [Reg.a] := by
  decide

theorem witness_ResetGivesTheResetState : State.PowerOn { busy with mem := [] } := rfl

theorem witness_StepsAndHostActionsKeepTheInvariant : busy.Inv := by
  unfold State.Inv
  decide

theorem witness_HostAccessesReadBackWhatTheyStore :
    Reg.h ≠ Reg.m ∧
    (List.replicate 65536 (0x00 : Byte)).length ≤ 65536 ∧
    ([(0x3E : Byte), 0x01].length ≤ 65536 ∧ [(0x3E : Byte), 0x01][1]? = some 0x01 ∧
      [(0x3E : Byte), 0x01].length ≤ (0xFFFF : Word).toNat) := by
  refine ⟨by decide, by rw [List.length_replicate], by decide, by decide, by decide⟩

theorem witness_OnlyTransfersWritePc : writesPc .hlt = false ∧ writesPc (.mov .a .m) = false := by
  decide

theorem witness_UnreadBytesHaveNoInfluence :
    (0xFFFE ∉ loadsFrom (.call 0x1000) busy ∧ 0xFFFE ∈ storesTo (.call 0x1000) busy) ∧
    (0x0000 ∉ loadsFrom (.call 0x1000) busy ∧ 0x0000 ∉ storesTo (.call 0x1000) busy) := by
  decide

theorem witness_MovCopies :
    ¬ (Reg.m = Reg.m ∧ Reg.h = Reg.m) ∧ ¬ (Reg.h = Reg.m ∧ Reg.m = Reg.m) := by
  decide

theorem witness_MviLoadsTheImmediate : Reg.c ≠ Reg.m ∧ Reg.m = Reg.m := by decide

theorem witness_AccumulatorLoadsAndStores :
    (Instr.sta ((0xFF : Byte) ++ (0x10 : Byte)) = .sta 0xFF10 ∧
      (0xFF10 : Word) = (0xFF : Byte) ++ (0x10 : Byte)) ∧
    (Instr.stax .bc = .stax .bc ∧ (0x1200 : Word) = busy.b ++ busy.c) ∧
    (Instr.stax .de = .stax .de ∧ (0x0000 : Word) = busy.d ++ busy.e) := by
  decide

theorem witness_CompareWritesFlagsOnly :
    (Instr.cmp .m = .cmp .m ∧ (0x45 : Byte) = readReg busy .m) ∧
    (Instr.cpi 0x00 = .cpi 0x00 ∧ (0x00 : Byte) = 0x00) := by
  decide

theorem witness_IncrementAndDecrement :
    (Instr.inr .m = .inr .m ∧ 1 = 1 ∧ 15 = 15) ∧ (Instr.dcr .a = .dcr .a ∧ 255 = 255 ∧ 0 = 0) ∧
    Reg.m = Reg.m ∧ Reg.a ≠ Reg.m := by
  decide

theorem witness_PairIncrementAndDecrement :
    (Instr.inx .sp = .inx .sp ∧ 1 = 1) ∧ (Instr.dcx .bc = .dcx .bc ∧ 65535 = 65535) ∧
    Pair.bc ≠ Pair.sp := by
  decide

theorem witness_DecimalAdjustGivesTheBcdSum :
    (IsBcd busy.a ∧ IsBcd (readReg busy .m) ∧ Instr.add .m = .add .m) ∧
    (IsBcd 0x99 ∧ IsBcd 0x99 ∧ Instr.aci 0x99 = .aci 0x99) ∧ IsBcd 0x00 := by
  unfold IsBcd
  decide

theorem witness_LogicOperations :
    (Instr.ana .m = .ana .m ∧ (0x45 : Byte) = readReg busy .m ∧ Bool.and = Bool.and) ∧
    (Instr.ori 0x0F = .ori 0x0F ∧ (0x0F : Byte) = 0x0F ∧ Bool.or = Bool.or) := by
  refine ⟨⟨rfl, by decide, rfl⟩, rfl, rfl, rfl⟩

/-- The start state of T14. -/
theorem witness_StoreIntoTheNextInstructionIsFetched :
    ({ State.reset with a := 0xC9, mem := [(0, 0x32), (1, 0x03)] } : State).halted = false ∧
    Instr.wf .ret = true ∧
    readMem { State.reset with a := 0xC9, mem := [(0, 0x32), (1, 0x03)] } 0x0000 = 0x32 ∧
    (readMem { State.reset with a := 0xC9, mem := [(0, 0x32), (1, 0x03)] } (0x0000 + 1)).toNat =
      ((0x0000 : Word) + 3).toNat % 256 ∧
    (readMem { State.reset with a := 0xC9, mem := [(0, 0x32), (1, 0x03)] } (0x0000 + 2)).toNat =
      ((0x0000 : Word) + 3).toNat / 256 ∧
    encodeWith .dd .ret = [0xC9] := by
  decide

theorem witness_CallsPushTheReturnAddress :
    ((Instr.cnz 0x1000, true) ∈ [(Instr.call 0x1000, true), (.callAlias 0x1000, true),
      (.cnz 0x1000, !busy.flags.z), (.cz 0x1000, busy.flags.z)]) ∧
    ((Instr.cz 0x1000, false) ∈ [(Instr.call 0x1000, true), (.callAlias 0x1000, true),
      (.cnz 0x1000, !busy.flags.z), (.cz 0x1000, busy.flags.z)]) := by
  decide

theorem witness_ReturnsPopPc :
    ((Instr.rp, true) ∈ [(Instr.ret, true), (.rp, !busy.flags.s), (.rm, busy.flags.s)]) ∧
    ((Instr.rm, false) ∈ [(Instr.ret, true), (.rp, !busy.flags.s), (.rm, busy.flags.s)]) := by
  decide

theorem witness_PushAndPop :
    (Instr.pushPsw, busy.a, packFlags busy.flags) ∈ [(.push .bc, busy.b, busy.c),
      (.push .de, busy.d, busy.e), (.push .hl, busy.h, busy.l),
      (.pushPsw, busy.a, packFlags busy.flags)] := by
  decide

theorem witness_NopHltAndUnimplemented : (1 : Fin 8) ≠ 0 ∧ (7 : Fin 8) ≠ 0 := by decide

end Sys2Proof.Tests
end

section
/-! The register bank: writes of one register (R12) and the pairs as their two registers (R13). -/

namespace Sys2Proof.Machine

/-- A store to memory changes no physical register. -/
theorem writeMem_regsBut (s : State) (x : Word) (v : Byte) : SameRegsBut [] s (writeMem s x v) :=
  fun _ hq _ => readReg_writeMem s x v hq

/-- Settles O21: the laws of `writeReg` for a physical register, those of `writeMem` at H:L for M. -/
theorem registerWritesAreIndependent : Obligations.RegisterWritesAreIndependent := by
  intro s r v
  refine ⟨fun hr => ?physical, fun hr => ?throughM, writeReg_pc s r v, writeReg_sp s r v,
    writeReg_flags s r v, writeReg_halted s r v⟩
  case physical =>
    exact ⟨readReg_writeReg_self s v hr, writeReg_regsBut s r v, writeReg_mem s v hr⟩
  case throughM =>
    rw [hr, writeReg_m]
    exact ⟨readMem_writeMem_self s (hlWord s) v, writeMem_sameMemBut s (hlWord s) v,
      writeMem_regsBut s (hlWord s) v⟩

/-- Settles O22: the two bytes of a pair write are the high and the low byte of the word, which
`wordOf` joins again. -/
theorem pairsAreTheirRegisters : Obligations.PairsAreTheirRegisters := by
  intro s v
  have hjoin : hiByte v ++ loByte v = v := wordOf_hiByte_loByte v
  exact ⟨rfl, rfl, rfl, ⟨hiByte v, loByte v, hjoin, rfl, rfl, rfl⟩, packFlags s.flags, rfl, rfl⟩

end Sys2Proof.Machine
end

section
/-! Memory (20_memory.md): one write and its frame (R41), and any sequence of writes from power-on (R42). -/

namespace Sys2Proof.Machine

/-- Memory's own store keeps the low 8 bits of the host's value (R41). -/
theorem hostAct_storeMem (ca : CallAlias) (x : Word) (n : Nat) (s : State) :
    hostAct ca (.storeMem x n) s = .next (writeMem s x (BitVec.ofNat 8 n)) := rfl

/-- A store changes memory and nothing else of the state. -/
theorem writeMem_eq (s : State) (x : Word) (v : Byte) :
    writeMem s x v = { s with mem := (writeMem s x v).mem } := rfl

/-- Settles O16: the laws of a read after a write, the host's store being a write of the truncated
value. -/
theorem writeThenReadMemory : Obligations.WriteThenReadMemory := by
  intro s x v n ca
  refine ⟨readMem_writeMem_self s x v, fun y hy => readMem_writeMem_other s v hy,
    writeMem_eq s x v, _, hostAct_storeMem ca x n s, ?_⟩
  rw [readMem_writeMem_self, BitVec.toNat_ofNat]

/-- A write that comes before others counts where none of them is to its address. -/
theorem latestWrite_cons (x y : Word) (v : Byte) (ws : List (Word × Byte)) :
    latestWrite ((x, v) :: ws) y = (latestWrite ws y).or (if y = x then some v else none) := by
  have hfirst : ([(x, v)].find? fun w => w.1 == y).map Prod.snd = if y = x then some v else none := by
    by_cases h : y = x
    · simp [h]
    · simp [h, Ne.symm h]
  simp only [latestWrite, List.reverse_cons, List.find?_append, Option.map_or, hfirst]

/-- After a sequence of writes an address holds the latest write to it, or else what it held before. -/
theorem readMem_writeAll (s : State) (ws : List (Word × Byte)) (y : Word) :
    readMem (writeAll s ws) y = (latestWrite ws y).getD (readMem s y) := by
  induction ws generalizing s with
  | nil => rfl
  | cons w rest ih =>
    obtain ⟨x, v⟩ := w
    rw [writeAll, ih, latestWrite_cons, readMem_writeMem]
    cases latestWrite rest y with
    | some u => rfl
    | none => by_cases h : y = x <;> simp [h]

/-- At power-on every address reads 0x00 (R42). -/
theorem readMem_of_powerOn {s : State} (h : s.PowerOn) (x : Word) : readMem s x = 0x00 := by
  have hmem : s.mem = [] := h
  rw [readMem, hmem]
  rfl

/-- Settles O17: a read after any writes, from a memory all 0x00; the equations of M; and no physical
register depends on memory. -/
theorem memoryReadsLatestWriteOrZero : Obligations.MemoryReadsLatestWriteOrZero := by
  refine ⟨fun s ws x hpower => ?latest, fun s x v r => ?onlyM⟩
  case latest => rw [readMem_writeAll, readMem_of_powerOn hpower]
  case onlyM => exact ⟨readReg_m s, writeReg_m s v, readReg_writeMem s x v⟩

end Sys2Proof.Machine
end

section
/-! The one-byte quadrants of the opcode map (30_encoding.md): MOV (R68) and the ALU operations (R69). An
opcode byte is taken apart into its fields, and the numbers of the fields are read off the byte's. -/

namespace Sys2Proof.Machine

/-! ## The fields of an opcode byte as numbers -/

/-- R62 in numbers: `qq`, `ddd` and `sss` weigh 64, 8 and 1. -/
theorem opcodeOf_toNat (q : Field2) (d s : Field3) :
    (opcodeOf q d s).toNat = 64 * (bits2 q).toNat + 8 * (bits3 d).toNat + (bits3 s).toNat := by
  cases q <;> cases d <;> cases s <;> rfl

/-- The number of a 2-bit field fixes the field. -/
theorem bits2_toNat_injective {p q : Field2} (h : (bits2 p).toNat = (bits2 q).toNat) : p = q := by
  cases p <;> cases q <;> simp [bits2] at h ⊢

/-- The 64 bytes of a quadrant are those with its `qq`. -/
theorem quadrant_eq {q : Field2} {d s : Field3} (k : Field2)
    (hlo : 64 * (bits2 k).toNat ≤ (opcodeOf q d s).toNat)
    (hhi : (opcodeOf q d s).toNat < 64 * (bits2 k).toNat + 64) : q = k := by
  rw [opcodeOf_toNat] at hlo hhi
  exact bits2_toNat_injective (by omega)

/-- The field of a register is the register's index (R63). -/
theorem regIndex_regOf (f : Field3) : regIndex (regOf f) = (bits3 f).toNat := by
  cases f <;> rfl

/-- The number in bits 5 to 3 of an opcode byte. -/
theorem opcodeOf_toNat_ddd (q : Field2) (d s : Field3) :
    (opcodeOf q d s).toNat / 8 % 8 = (bits3 d).toNat := by
  rw [opcodeOf_toNat]
  omega

/-- The number in bits 2 to 0 of an opcode byte. -/
theorem opcodeOf_toNat_sss (q : Field2) (d s : Field3) :
    (opcodeOf q d s).toNat % 8 = (bits3 s).toNat := by
  rw [opcodeOf_toNat]
  omega

/-! ## One-byte instructions -/

/-- An opcode byte that means a one-byte instruction decodes to it and takes nothing after it. -/
theorem decodesTo_of_f1 {op : Byte} {i : Instr} (hop : ∀ ca, decodeOp ca op 0 0 = i)
    (hformat : i.format = .f1) : DecodesTo [op] i := by
  intro ca rest
  have hop1 : opcodeFormat ca op = .f1 := by rw [opcodeFormat, hop, hformat]
  simp only [List.cons_append, List.nil_append, decodeWith, hop1, hop]

/-! ## Quadrant 01 -/

/-- Every field pair of quadrant 01 but `110 110` is a MOV. -/
theorem decodeQ01_mov {d s : Field3} (h : ¬ (d = .f110 ∧ s = .f110)) :
    decodeQ01 d s = .mov (regOf d) (regOf s) := by
  unfold decodeQ01
  split
  · exact absurd ⟨rfl, rfl⟩ h
  · rfl

/-- Settles O4: the fields of the byte are the two registers' indices, and `01 110 110` is 0x76. -/
theorem movQuadrantDecodes : Obligations.MovQuadrantDecodes := by
  intro op hlo hhi
  refine ⟨?hlt, fun hne => ?mov⟩
  case hlt =>
    rintro rfl
    exact decodesTo_of_f1 (fun _ => rfl) rfl
  case mov =>
    obtain ⟨q, d, s, rfl⟩ := exists_opcodeOf op
    obtain rfl : q = .f01 := quadrant_eq .f01 hlo hhi
    have hfields : ¬ (d = .f110 ∧ s = .f110) := by
      rintro ⟨rfl, rfl⟩
      exact hne rfl
    refine ⟨regOf d, regOf s, ?_, ?_, decodesTo_of_f1 (fun ca => ?_) rfl⟩
    · rw [regIndex_regOf, opcodeOf_toNat_ddd]
    · rw [regIndex_regOf, opcodeOf_toNat_sss]
    · rw [decodeOp_opcodeOf, decodeQ01_mov hfields]

/-! ## Quadrant 10 -/

/-- The operation of a band of quadrant 10 is the one at the band's number in R69's list, applied to the
register of the byte; each is one byte long. -/
theorem decodeQ10_band (o s : Field3) :
    ∃ f, [Instr.add, Instr.adc, Instr.sub, Instr.sbb, Instr.ana, Instr.xra, Instr.ora,
        Instr.cmp][(bits3 o).toNat]? = some f ∧
      decodeQ10 o s = f (regOf s) ∧ (f (regOf s)).format = .f1 := by
  cases o <;> exact ⟨_, rfl, rfl, rfl⟩

/-- Settles O5: bits 5 to 3 of the byte are the number of its band, bits 2 to 0 the register's index. -/
theorem aluQuadrantDecodes : Obligations.AluQuadrantDecodes := by
  intro op hlo hhi
  obtain ⟨q, o, s, rfl⟩ := exists_opcodeOf op
  obtain rfl : q = .f10 := quadrant_eq .f10 hlo hhi
  obtain ⟨f, hband, hdecode, hformat⟩ := decodeQ10_band o s
  refine ⟨regOf s, ?_, f, ?_, decodesTo_of_f1 (fun ca => ?_) hformat⟩
  · rw [regIndex_regOf, opcodeOf_toNat_sss]
  · rw [opcodeOf_toNat_ddd, hband]
  · rw [decodeOp_opcodeOf, hdecode]

end Sys2Proof.Machine
end

section
/-! The fetch unit (40_step_cycle.md): what a byte fetch (R90) and a word fetch (R91) answer, each as one
equation. -/

namespace Sys2Proof.Machine

/-- Advancing an address is addition modulo 65536 (R90). -/
theorem word_add_ofNat (x : Word) (n : Nat) :
    x + BitVec.ofNat 16 n = BitVec.ofNat 16 ((x.toNat + n) % 65536) := by
  apply BitVec.eq_of_toNat_eq
  simp only [BitVec.toNat_add, BitVec.toNat_ofNat]
  omega

/-- A byte fetch reads at PC and moves PC by 1. -/
theorem fetchByte_eq (s : State) :
    fetchByte s = (readMem s s.pc, { s with pc := s.pc + 1 }) := rfl

/-- A word fetch reads the low byte at PC and the high byte at PC + 1, and moves PC by 2. -/
theorem fetchWord_eq (s : State) :
    fetchWord s = (wordOf (readMem s (s.pc + 1)) (readMem s s.pc), { s with pc := s.pc + 2 }) := by
  have hpc : s.pc + 1 + 1 = s.pc + 2 := BitVec.add_assoc s.pc 1 1
  rw [← hpc]
  rfl

/-- Settles O9: the equations of the two fetches, with PC + 1 and PC + 2 read as numbers. -/
theorem fetchUnitReadsAtPc : Obligations.FetchUnitReadsAtPc := by
  intro s
  refine ⟨?byte, ?word⟩
  case byte =>
    rw [← word_add_ofNat]
    exact fetchByte_eq s
  case word =>
    rw [← word_add_ofNat]
    exact fetchWord_eq s

end Sys2Proof.Machine
end

section
/-! The moves of one byte (41_data_transfer.md): MOV (R111) and MVI (R112), each a decoding of its
opcode's fields and one register write. -/

namespace Sys2Proof.Machine

/-! ## Opcode bytes written as numbers -/

/-- A register's index is the number of its field (R63). -/
theorem regIndex_eq_regField (r : Reg) : regIndex r = (bits3 (regField r)).toNat := by
  rw [← regIndex_regOf, regOf_regField]

/-- The byte of a number is the opcode byte whose fields make up that number (R62). -/
theorem byteOf_eq_opcodeOf {n : Nat} (q : Field2) (d s : Field3)
    (hn : n = 64 * (bits2 q).toNat + 8 * (bits3 d).toNat + (bits3 s).toNat) :
    byteOf n = opcodeOf q d s := by
  rw [hn, ← opcodeOf_toNat, byteOf, BitVec.ofNat_toNat, BitVec.setWidth_eq]

/-- An opcode byte that means a two-byte instruction takes the byte after it as the immediate. -/
theorem decodesTo_of_f2 {op : Byte} {f : Byte → Instr} (hop : ∀ ca d8, decodeOp ca op d8 0 = f d8)
    (hformat : (f 0).format = .f2) (d8 : Byte) : DecodesTo [op, d8] (f d8) := by
  intro ca rest
  have hop2 : opcodeFormat ca op = .f2 := by rw [opcodeFormat, hop, hformat]
  simp only [List.cons_append, List.nil_append, decodeWith, hop2, hop]

/-- `01 ddd sss` is MOV, but for `01 110 110` (R111). -/
theorem mov_decodesTo {dst src : Reg} (h : ¬ (dst = .m ∧ src = .m)) :
    DecodesTo [byteOf (0x40 + 8 * regIndex dst + regIndex src)] (.mov dst src) := by
  have hbyte : byteOf (0x40 + 8 * regIndex dst + regIndex src) =
      opcodeOf .f01 (regField dst) (regField src) := by
    rw [regIndex_eq_regField, regIndex_eq_regField]
    exact byteOf_eq_opcodeOf .f01 _ _ rfl
  have hfields : ¬ (regField dst = .f110 ∧ regField src = .f110) := by
    rintro ⟨hd, hs⟩
    exact h ⟨by rw [← regOf_regField dst, hd, regOf], by rw [← regOf_regField src, hs, regOf]⟩
  rw [hbyte]
  refine decodesTo_of_f1 (fun ca => ?_) rfl
  rw [decodeOp_opcodeOf, decodeQ01_mov hfields, regOf_regField, regOf_regField]

/-- `00 ddd 110` and the byte after it are MVI (R112). -/
theorem mvi_decodesTo (dst : Reg) (d8 : Byte) :
    DecodesTo [byteOf (0x06 + 8 * regIndex dst), d8] (.mvi dst d8) := by
  have hbyte : byteOf (0x06 + 8 * regIndex dst) = opcodeOf .f00 (regField dst) .f110 := by
    rw [regIndex_eq_regField]
    exact byteOf_eq_opcodeOf .f00 _ .f110 (by simp [bits2, bits3, Nat.add_comm])
  rw [hbyte]
  refine decodesTo_of_f2 (fun ca b2 => ?_) rfl d8
  rw [decodeOp_opcodeOf, decodeQ00, regOf_regField]

/-! ## The two meanings -/

/-- MOV writes the byte the source holds before it (R111). -/
theorem exec_mov (dst src : Reg) (s : State) :
    exec (.mov dst src) s = .next (writeReg s dst (readReg s src)) := rfl

/-- MVI writes its immediate (R112). -/
theorem exec_mvi (dst : Reg) (d8 : Byte) (s : State) :
    exec (.mvi dst d8) s = .next (writeReg s dst d8) := rfl

/-- The whole effect of one register write, M at the old HL: R12 with memory read byte by byte. -/
theorem writeReg_effect (s : State) (r : Reg) (v : Byte) :
    (r ≠ .m → readReg (writeReg s r v) r = v ∧ SameRegsBut [r] s (writeReg s r v) ∧
      SameMem s (writeReg s r v)) ∧
    (r = .m → readMem (writeReg s r v) (hlWord s) = v ∧ SameMemBut [hlWord s] s (writeReg s r v) ∧
      SameRegsBut [] s (writeReg s r v)) ∧
    (writeReg s r v).pc = s.pc ∧ (writeReg s r v).sp = s.sp ∧ (writeReg s r v).flags = s.flags ∧
    (writeReg s r v).halted = s.halted := by
  obtain ⟨hphysical, hthroughM, hrest⟩ := registerWritesAreIndependent s r v
  refine ⟨fun hr => ?_, hthroughM, hrest⟩
  obtain ⟨hread, hregs, hmem⟩ := hphysical hr
  exact ⟨hread, hregs, readMem_congr hmem⟩

/-- Settles O35: MOV is the register write of the source's old byte. -/
theorem movCopies : Obligations.MovCopies := fun dst src s h =>
  ⟨mov_decodesTo h, _, exec_mov dst src s, writeReg_effect s dst (readReg s src)⟩

/-- Settles O36: MVI is the register write of the immediate. -/
theorem mviLoadsTheImmediate : Obligations.MviLoadsTheImmediate := fun dst d8 s =>
  ⟨mvi_decodesTo dst d8, _, exec_mvi dst d8 s, writeReg_effect s dst d8⟩

end Sys2Proof.Machine
end

section
/-! Register addition (42_arithmetic.md R135): the decoding of quadrant 10 from the numbers of its fields,
and what an `Add8` sent to the accumulator leaves behind. -/

namespace Sys2Proof.Machine

/-- `10 ooo sss` is the operation of its band on its register (R69). -/
theorem quadrant10_decodesTo {n : Nat} {f : Reg → Instr} (o : Field3) (r : Reg)
    (hn : n = 0x80 + 8 * (bits3 o).toNat) (hf : ∀ s, decodeQ10 o s = f (regOf s))
    (hformat : (f r).format = .f1) : DecodesTo [byteOf (n + regIndex r)] (f r) := by
  have hbyte : byteOf (n + regIndex r) = opcodeOf .f10 o (regField r) := by
    rw [hn, regIndex_eq_regField]
    exact byteOf_eq_opcodeOf .f10 o _ rfl
  rw [hbyte]
  refine decodesTo_of_f1 (fun ca => ?_) hformat
  rw [decodeOp_opcodeOf, hf, regOf_regField]

/-- ADD sends `Add8` of A and the operand to A and the flags (R135). -/
theorem exec_add (r : Reg) (s : State) :
    exec (.add r) s = .next (toAcc s (add8 s.a (readReg s r) false)) := rfl

/-- An `Add8` sent to the accumulator: A is the sum, the five flags follow it, all else is kept (R132). -/
theorem toAcc_add8_effect (s : State) (b : Byte) (cin : Bool) :
    IsSum s.a b cin (toAcc s (add8 s.a b cin)).a (toAcc s (add8 s.a b cin)).flags ∧
    IsSZP (toAcc s (add8 s.a b cin)).a (toAcc s (add8 s.a b cin)).flags ∧
    toAcc s (add8 s.a b cin) =
      { s with a := (toAcc s (add8 s.a b cin)).a, flags := (toAcc s (add8 s.a b cin)).flags } :=
  ⟨add8_sum s.a b cin, aluFlags_szp (add8 s.a b cin), rfl⟩

/-- Settles O41: ADD is band 0 of quadrant 10, and its meaning an `Add8` with no carry in. -/
theorem addRegister : Obligations.AddRegister := fun r s =>
  ⟨quadrant10_decodesTo .f000 r rfl (fun _ => rfl) rfl, _, exec_add r s,
    toAcc_add8_effect s (readReg s r) false⟩

end Sys2Proof.Machine
end

section
/-! Exceptions (60_exceptions.md): the core has none, so every instruction and every running step answers
a next state (R260). -/

namespace Sys2Proof.Machine

/-- R260 for the execute engine: the meaning of each instruction is a next state, in every state. -/
theorem exec_completes (i : Instr) (s : State) : ∃ t, exec i s = .next t := by
  cases i <;> exact ⟨_, rfl⟩

/-- A step that is not halted executes the fetched instruction in the state the fetch left (R94). -/
theorem stepWith_of_running (ca : CallAlias) {s : State} (h : s.halted = false) :
    stepWith ca s = exec (fetchInstr ca s).1 (fetchInstr ca s).2 := by
  simp [stepWith, h]

/-- Settles O13: a running step is the execution of the fetched instruction, and every execution
completes. -/
theorem everyStepCompletes : Obligations.EveryStepCompletes := by
  refine ⟨exec_completes, fun ca s hrunning => ?_⟩
  rw [stepWith_of_running ca hrunning]
  exact exec_completes _ _

end Sys2Proof.Machine
end

section
/-! The decoder and the encoder (30_encoding.md R60 to R73). A list of bytes decodes to an instruction exactly
when it begins with the instruction's encoding; it is rejected exactly when it is too short. -/

namespace Sys2Proof

/-! ## What the opcode map keeps of the bytes it reads -/

/-- The opcode byte of a decoded instruction is the byte it was decoded from. -/
theorem opcodeByte_decodeOp (ca : CallAlias) (op b2 b3 : Byte) :
    opcodeByte ca (decodeOp ca op b2 b3) = op := by
  obtain ⟨q, d, s, rfl⟩ := exists_opcodeOf op
  rw [decodeOp_opcodeOf]
  cases q with
  | f00 | f01 | f10 => cases d <;> cases s <;> rfl
  | f11 => cases ca <;> cases d <;> cases s <;> rfl

/-- Every byte decodes to an instruction that the encoder can write. -/
theorem wf_decodeOp (ca : CallAlias) (op b2 b3 : Byte) : (decodeOp ca op b2 b3).wf = true := by
  obtain ⟨q, d, s, rfl⟩ := exists_opcodeOf op
  rw [decodeOp_opcodeOf]
  cases q with
  | f00 | f01 | f10 => cases d <;> cases s <;> rfl
  | f11 => cases ca <;> cases d <;> cases s <;> rfl

/-- The first byte alone fixes the format (R60). -/
theorem format_decodeOp (ca : CallAlias) (op b2 b3 : Byte) :
    (decodeOp ca op b2 b3).format = opcodeFormat ca op := by
  obtain ⟨q, d, s, rfl⟩ := exists_opcodeOf op
  rw [opcodeFormat, decodeOp_opcodeOf, decodeOp_opcodeOf]
  cases q with
  | f00 | f01 | f10 => cases d <;> cases s <;> rfl
  | f11 => cases ca <;> cases d <;> cases s <;> rfl

/-- The operand bytes of a decoded instruction are the first of those it was decoded from. -/
theorem operandBytes_decodeOp_isPrefix (ca : CallAlias) (op b2 b3 : Byte) :
    operandBytes (decodeOp ca op b2 b3) <+: [b2, b3] := by
  obtain ⟨q, d, s, rfl⟩ := exists_opcodeOf op
  rw [decodeOp_opcodeOf]
  cases q with
  | f00 => cases d <;> cases s <;> simp [decodeQ00, pairForm, operandBytes]
  | f01 | f10 => cases d <;> cases s <;> exact List.nil_prefix
  | f11 => cases ca <;> cases d <;> cases s <;> simp [decodeQ11, callFamily, operandBytes]

/-! ## Lengths -/

/-- An encoding has the length of its format (R60, R61). -/
theorem length_encodeWith (ca : CallAlias) (i : Instr) : (encodeWith ca i).length = i.length := by
  cases i <;> rfl

theorem length_operandBytes (i : Instr) : (operandBytes i).length + 1 = i.length :=
  length_encodeWith .dd i

theorem one_le_length (i : Instr) : 1 ≤ i.length := by
  rw [← length_operandBytes]
  omega

theorem length_le_three (i : Instr) : i.length ≤ 3 := by
  unfold Instr.length
  cases i.format <;> decide

/-- The operand bytes of a decoded instruction are as many of those read as its format has. -/
theorem operandBytes_decodeOp (ca : CallAlias) (op b2 b3 : Byte) :
    operandBytes (decodeOp ca op b2 b3) = [b2, b3].take ((opcodeFormat ca op).length - 1) := by
  have hlen := length_operandBytes (decodeOp ca op b2 b3)
  rw [Instr.length, format_decodeOp] at hlen
  rw [← hlen, Nat.add_sub_cancel]
  exact List.prefix_iff_eq_take.1 (operandBytes_decodeOp_isPrefix ca op b2 b3)

/-! ## Decoding an encoding -/

/-- Two operand bytes in front of `b2 b3` make up the word `b3 b2`. -/
theorem wordOf_of_operands {w : Word} {b2 b3 : Byte} (h : [loByte w, hiByte w] <+: [b2, b3]) :
    wordOf b3 b2 = w := by
  simp only [List.cons_prefix_cons] at h
  obtain ⟨rfl, rfl, -⟩ := h
  exact wordOf_hiByte_loByte w

/-- `01 ddd sss` of a MOV is not the pattern of HLT. -/
theorem mov_wf_fields {dst src : Reg} (hwf : (Instr.mov dst src).wf = true) :
    ¬ (regField dst = .f110 ∧ regField src = .f110) := by
  rintro ⟨hd, hs⟩
  obtain rfl : dst = .m := by rw [← regOf_regField dst, hd, regOf]
  obtain rfl : src = .m := by rw [← regOf_regField src, hs, regOf]
  cases hwf

/-- An instruction is decoded from its opcode byte and any bytes that begin with its operand bytes. -/
theorem decodeOp_opcodeByte (ca : CallAlias) {i : Instr} (hwf : i.wf = true) {b2 b3 : Byte}
    (hops : operandBytes i <+: [b2, b3]) : decodeOp ca (opcodeByte ca i) b2 b3 = i := by
  have hfields := fun q d s => decodeOp_opcodeOf ca q d s b2 b3
  cases i with
  | lxi rp w =>
    obtain rfl := wordOf_of_operands hops
    cases rp <;> exact hfields _ _ _
  | sta w | lda w | shld w | lhld w | jmp w | jmpAlias w | jnz w | jz w | jnc w | jc w | jpo w | jpe w
  | jp w | jm w | call w | cnz w | cz w | cnc w | cc w | cpo w | cpe w | cp w | cm w =>
    obtain rfl := wordOf_of_operands hops
    exact hfields _ _ _
  | callAlias w =>
    obtain rfl := wordOf_of_operands hops
    cases ca <;> exact hfields _ _ _
  | mvi r d8 =>
    obtain rfl : d8 = b2 := (List.cons_prefix_cons.1 hops).1
    cases r <;> exact hfields _ _ _
  | adi d8 | aci d8 | sui d8 | sbi d8 | ani d8 | xri d8 | ori d8 | cpi d8 =>
    obtain rfl : d8 = b2 := (List.cons_prefix_cons.1 hops).1
    exact hfields _ _ _
  | nopAlias xxx =>
    cases xxx with
    | f000 => cases hwf
    | _ => exact hfields _ _ _
  | mov dst src =>
    rw [opcodeByte, hfields, Machine.decodeQ01_mov (mov_wf_fields hwf), regOf_regField, regOf_regField]
  | inx p | dcx p | dad p | stax p | ldax p | push p | pop p => cases p <;> exact hfields _ _ _
  | inr r | dcr r | add r | adc r | sub r | sbb r | ana r | xra r | ora r | cmp r | unimplRst r =>
    cases r <;> exact hfields _ _ _
  | unimpl0xED | unimpl0xFD => cases ca <;> exact hfields _ _ _
  | _ => exact hfields _ _ _

/-- An instruction has two operand bytes at most. -/
theorem exists_operandBytes_isPrefix (i : Instr) : ∃ b2 b3, operandBytes i <+: [b2, b3] := by
  have hlen := length_operandBytes i
  have hle := length_le_three i
  match h : operandBytes i with
  | [] => exact ⟨0, 0, List.nil_prefix⟩
  | [b2] => exact ⟨b2, 0, by simp⟩
  | [b2, b3] => exact ⟨b2, b3, List.prefix_rfl⟩
  | _ :: _ :: _ :: _ => simp only [h, List.length_cons] at hlen; omega

/-- The format of an opcode byte is that of the instruction it encodes. -/
theorem opcodeFormat_opcodeByte (ca : CallAlias) {i : Instr} (hwf : i.wf = true) :
    opcodeFormat ca (opcodeByte ca i) = i.format := by
  obtain ⟨b2, b3, hops⟩ := exists_operandBytes_isPrefix i
  rw [← format_decodeOp ca _ b2 b3, decodeOp_opcodeByte ca hwf hops]

/-! ## Lists of bytes -/

theorem decodeWith_f1 {ca : CallAlias} {op : Byte} (hf : opcodeFormat ca op = .f1) (rest : List Byte) :
    decodeWith ca (op :: rest) = .instr (decodeOp ca op 0 0) rest := by
  simp only [decodeWith, hf]

theorem decodeWith_f2 {ca : CallAlias} {op : Byte} (hf : opcodeFormat ca op = .f2) (b2 : Byte)
    (rest : List Byte) : decodeWith ca (op :: b2 :: rest) = .instr (decodeOp ca op b2 0) rest := by
  simp only [decodeWith, hf]

theorem decodeWith_f3 {ca : CallAlias} {op : Byte} (hf : opcodeFormat ca op = .f3) (b2 b3 : Byte)
    (rest : List Byte) :
    decodeWith ca (op :: b2 :: b3 :: rest) = .instr (decodeOp ca op b2 b3) rest := by
  simp only [decodeWith, hf]

/-- A list of bytes decodes to the instruction whose encoding it begins with. -/
theorem decodeWith_encodeWith (ca : CallAlias) {i : Instr} (hwf : i.wf = true) (rest : List Byte) :
    decodeWith ca (encodeWith ca i ++ rest) = .instr i rest := by
  have hformat := opcodeFormat_opcodeByte ca hwf
  have hlen : (operandBytes i).length + 1 = i.format.length := length_operandBytes i
  have hdecode := fun b2 b3 => @decodeOp_opcodeByte ca i hwf b2 b3
  rw [encodeWith, List.cons_append]
  cases hf : i.format <;> rw [hf] at hformat hlen
  case f1 =>
    have hops : operandBytes i = [] := List.length_eq_zero_iff.1 (Nat.succ.inj hlen)
    rw [hops, List.nil_append, decodeWith_f1 hformat, hdecode 0 0 (by simp [hops])]
  case f2 =>
    obtain ⟨b2, hops⟩ := List.length_eq_one_iff.1 (Nat.succ.inj hlen)
    rw [hops, List.singleton_append, decodeWith_f2 hformat, hdecode b2 0 (by simp [hops])]
  case f3 =>
    obtain ⟨b2, b3, hops⟩ := List.length_eq_two.1 (Nat.succ.inj hlen)
    rw [hops, List.cons_append, List.singleton_append, decodeWith_f3 hformat,
      hdecode b2 b3 (by simp [hops])]

/-- The bytes a decoder that looked at `op`, `b2` and `b3` took are the encoding of what it answers. -/
theorem encodeWith_decodeOp (ca : CallAlias) (op b2 b3 : Byte) :
    encodeWith ca (decodeOp ca op b2 b3) = op :: [b2, b3].take ((opcodeFormat ca op).length - 1) := by
  rw [encodeWith, opcodeByte_decodeOp, operandBytes_decodeOp]

/-- What decodes to an instruction begins with its encoding. -/
theorem decodeWith_inv {ca : CallAlias} {bytes rest : List Byte} {i : Instr}
    (h : decodeWith ca bytes = .instr i rest) : i.wf = true ∧ bytes = encodeWith ca i ++ rest := by
  unfold decodeWith at h
  split at h
  case h_1 => cases h
  case h_2 op tail =>
    split at h
    case h_1 hf =>
      cases h
      exact ⟨wf_decodeOp _ _ _ _, by rw [encodeWith_decodeOp, hf]; rfl⟩
    case h_2 hf =>
      split at h <;> cases h
      exact ⟨wf_decodeOp _ _ _ _, by rw [encodeWith_decodeOp, hf]; rfl⟩
    case h_3 hf =>
      split at h <;> cases h
      exact ⟨wf_decodeOp _ _ _ _, by rw [encodeWith_decodeOp, hf]; rfl⟩

/-- Settles O1: the opcode byte and the operand bytes of a well-formed instruction decode to it. -/
theorem decodeOfEncodeIsIdentity : Obligations.DecodeOfEncodeIsIdentity :=
  fun ca _ rest hwf => decodeWith_encodeWith ca hwf rest

/-- Settles O2: the decoder takes an opcode byte and the operand bytes its format has, which are the encoding
of the instruction it answers. -/
theorem encodeOfDecodeIsIdentity : Obligations.EncodeOfDecodeIsIdentity :=
  fun _ _ _ _ h => decodeWith_inv h

/-- No two instructions have the same encoding. -/
theorem encodeWith_injective {ca : CallAlias} {i j : Instr} (hi : i.wf = true) (hj : j.wf = true)
    (h : encodeWith ca i = encodeWith ca j) : i = j := by
  have hdi := decodeWith_encodeWith ca hi []
  rw [h, decodeWith_encodeWith ca hj []] at hdi
  exact (Decoded.instr.inj hdi).1.symm

/-- A list with a first byte is rejected exactly when it is shorter than the byte's format. -/
theorem decodeWith_cons_rejected_iff (ca : CallAlias) (op : Byte) (rest : List Byte) :
    (∃ why, decodeWith ca (op :: rest) = .rejected why) ↔
      rest.length + 1 < (opcodeFormat ca op).length := by
  have hreason : Nonempty DecodeReject := ⟨.truncated⟩
  cases hf : opcodeFormat ca op with
  | f1 => simp [decodeWith_f1 hf, Format.length]
  | f2 =>
    match rest with
    | [] => simp [decodeWith, hf, Format.length]
    | b2 :: rest => simp [decodeWith_f2 hf, Format.length]
  | f3 =>
    match rest with
    | [] | [_] => simp [decodeWith, hf, Format.length]
    | b2 :: b3 :: rest => simp [decodeWith_f3 hf, Format.length]

/-- A list of bytes is rejected exactly when it ends before the instruction does (log 18). -/
theorem decodeWith_rejected_iff (ca : CallAlias) (bytes : List Byte) :
    (∃ why, decodeWith ca bytes = .rejected why) ↔
      bytes = [] ∨ ∃ op rest, bytes = op :: rest ∧ rest.length + 1 < (decodeOp ca op 0 0).length := by
  match bytes with
  | [] => exact ⟨fun _ => .inl rfl, fun _ => ⟨.truncated, rfl⟩⟩
  | op :: rest =>
    rw [decodeWith_cons_rejected_iff]
    constructor
    · exact fun h => .inr ⟨op, rest, rfl, h⟩
    · rintro (h | ⟨_, _, h, hshort⟩) <;> cases h
      exact hshort

/-- Settles O8: the format of the first byte is the format of the instruction, and the decoder rejects what is
shorter than it. -/
theorem firstByteFixesTheLength : Obligations.FirstByteFixesTheLength := by
  refine ⟨fun ca op b2 b3 => ⟨?_, one_le_length _, length_le_three _⟩, decodeWith_rejected_iff⟩
  rw [Instr.length, format_decodeOp, Instr.length, format_decodeOp]

/-- Three bytes hold an instruction, whatever they are. -/
theorem decodeWith_three_bytes (ca : CallAlias) (op b2 b3 : Byte) (rest : List Byte) :
    ∃ i rest', decodeWith ca (op :: b2 :: b3 :: rest) = .instr i rest' := by
  cases hd : decodeWith ca (op :: b2 :: b3 :: rest) with
  | instr i rest' => exact ⟨i, rest', rfl⟩
  | rejected why =>
    have hlen := length_le_three (decodeOp ca op 0 0)
    rcases (decodeWith_rejected_iff ca _).1 ⟨why, hd⟩ with h | ⟨op', rest', h, hshort⟩
    · cases h
    · cases h
      simp only [List.length_cons] at hshort
      omega

/-- Settles O6: three bytes always hold an instruction; the rows are counted quadrant by quadrant. -/
theorem everyOpcodeByteHasAMeaning : Obligations.EveryOpcodeByteHasAMeaning := by
  refine ⟨fun ca op b2 b3 rest => ?meaning, fun ca => ?count⟩
  case meaning =>
    obtain ⟨i, rest', hd⟩ := decodeWith_three_bytes ca op b2 b3 rest
    exact ⟨i, rest', hd, (decodeWith_inv hd).1⟩
  case count => cases ca <;> decide +kernel

/-! ## The CALL family and the printed bytes -/

/-- A byte of the CALL family decodes by R246. -/
theorem decodeOp_callAliasByte (ca x : CallAlias) (b2 b3 : Byte) :
    decodeOp ca (Machine.callAliasByte x) b2 b3 = callFamily ca x (wordOf b3 b2) := by
  cases x <;> rfl

/-- The format of a byte of the CALL family: three bytes for `CALL_ALIAS`, one for the others (R246). -/
theorem opcodeFormat_callAliasByte (ca x : CallAlias) :
    opcodeFormat ca (Machine.callAliasByte x) = if x = ca then .f3 else .f1 := by
  rw [opcodeFormat, decodeOp_callAliasByte]
  cases ca <;> cases x <;> rfl

/-- A byte of the CALL family that is not `CALL_ALIAS` takes one of the two unimplemented rows (R246). -/
theorem callFamily_of_ne {ca x : CallAlias} (hne : x ≠ ca) (addr : Word) :
    callFamily ca x addr = .unimpl0xED ∨ callFamily ca x addr = .unimpl0xFD := by
  cases ca <;> cases x <;> simp [callFamily] at hne ⊢

/-- Settles O7: the byte that is `CALL_ALIAS` has the format of CALL, the two others that of a no-op. -/
theorem callAliasIsTheOneCallByte : Obligations.CallAliasIsTheOneCallByte := by
  intro ca x lo hi rest s
  have hformat := opcodeFormat_callAliasByte ca x
  refine ⟨fun heq => ?call, fun hne => ⟨callFamily ca x (wordOf 0 0), ?noop⟩⟩
  case call =>
    rw [if_pos heq] at hformat
    rw [decodeWith_f3 hformat, decodeOp_callAliasByte, heq]
    exact ⟨by cases ca <;> rfl, rfl⟩
  case noop =>
    rw [if_neg hne] at hformat
    rw [decodeWith_f1 hformat, decodeOp_callAliasByte]
    rcases callFamily_of_ne hne (wordOf 0 0) with hrow | hrow <;> rw [hrow] <;> exact ⟨rfl, rfl, rfl⟩

/-- What the encoder writes for every `CALL_ALIAS` decodes to the instruction, and nothing after it is
taken. -/
theorem decodesTo_of_encodeWith {bytes : List Byte} {i : Instr} (hwf : i.wf = true)
    (h : ∀ ca, encodeWith ca i = bytes) : Machine.DecodesTo bytes i := by
  intro ca rest
  rw [← h ca]
  exact decodeWith_encodeWith ca hwf rest

/-- An instruction with a word operand takes its low, then its high byte (R66). -/
theorem decodesTo_of_f3 {op lo hi : Byte} {f : Word → Instr} (hwf : (f (wordOf hi lo)).wf = true)
    (h : ∀ ca, encodeWith ca (f (wordOf hi lo)) = [op, loByte (wordOf hi lo), hiByte (wordOf hi lo)]) :
    Machine.DecodesTo [op, lo, hi] (f (hi ++ lo)) := by
  rw [loByte_wordOf, hiByte_wordOf] at h
  exact decodesTo_of_encodeWith hwf h

/-- Settles O3: each printed byte decodes by computation, whatever its operand bytes are. -/
theorem sourceOpcodesDecodeAsPrinted : Obligations.SourceOpcodesDecodeAsPrinted := by
  intro d8 lo hi
  and_intros <;> exact fun _ _ => rfl

end Sys2Proof
end

section
/-! What an instruction touches (10_state.md section 10, 20_memory.md section 5). One predicate says what may
differ between two states; each update of the state has one lemma about it; the meanings are chains of
updates, so that the tables of all 86 instructions follow from one theorem. -/

namespace Sys2Proof.Machine

/-- From `s` to `t` only the bytes at `xs`, the registers `rs` and the flags `fs` may have changed, PC where
`jumps` says so, HALTED where `halts` holds; SP is now `sp`, and the memory form is kept. -/
structure Touches (s t : State) (xs : List Word) (rs : List Reg) (fs : List FlagName) (sp : Word)
    (jumps : Bool) (halts : Prop) : Prop where
  sameMem : SameMemBut xs s t
  sameRegs : SameRegsBut rs s t
  sameFlags : SameFlagsBut fs s t
  sp_eq : t.sp = sp
  pc_eq : jumps = false → t.pc = s.pc
  halted_eq : ¬ halts → t.halted = s.halted
  keepsInv : s.Inv → t.Inv

variable {halts : Prop}

/-- A state touches nothing on the way to itself, whatever may be touched. -/
theorem Touches.refl (xs : List Word) (rs : List Reg) (fs : List FlagName) (jumps : Bool) (s : State) :
    Touches s s xs rs fs s.sp jumps halts where
  sameMem _ _ := rfl
  sameRegs _ _ _ := rfl
  sameFlags _ _ := rfl
  sp_eq := rfl
  pc_eq _ := rfl
  halted_eq _ := rfl
  keepsInv := id

/-- One change after another touches what either touches. -/
theorem Touches.trans {xs xs' : List Word} {rs rs' : List Reg} {fs fs' : List FlagName} {sp sp' : Word}
    {jumps jumps' : Bool} {s t u : State} (h : Touches s t xs rs fs sp jumps halts)
    (h' : Touches t u xs' rs' fs' sp' jumps' halts) :
    Touches s u (xs ++ xs') (rs ++ rs') (fs ++ fs') sp' (jumps || jumps') halts where
  sameMem x hx := by
    rw [List.mem_append, not_or] at hx
    rw [h'.sameMem x hx.2, h.sameMem x hx.1]
  sameRegs r hr hx := by
    rw [List.mem_append, not_or] at hx
    rw [h'.sameRegs r hr hx.2, h.sameRegs r hr hx.1]
  sameFlags f hx := by
    rw [List.mem_append, not_or] at hx
    rw [h'.sameFlags f hx.2, h.sameFlags f hx.1]
  sp_eq := h'.sp_eq
  pc_eq hj := by
    rw [Bool.or_eq_false_iff] at hj
    rw [h'.pc_eq hj.2, h.pc_eq hj.1]
  halted_eq hh := by rw [h'.halted_eq hh, h.halted_eq hh]
  keepsInv hs := h'.keepsInv (h.keepsInv hs)

/-! ## One update -/

theorem writeMem_touches (s : State) (x : Word) (v : Byte) :
    Touches s (writeMem s x v) [x] [] [] s.sp false halts where
  sameMem := writeMem_sameMemBut s x v
  sameRegs := writeMem_regsBut s x v
  sameFlags _ _ := rfl
  sp_eq := rfl
  pc_eq _ := rfl
  halted_eq _ := rfl
  keepsInv := writeMem_wf x v

theorem writeReg_touches (s : State) (r : Reg) (v : Byte) :
    Touches s (writeReg s r v) (memOperand r s) [r] [] s.sp false halts where
  sameMem x hx := by
    rw [readMem_writeReg, if_neg]
    rintro ⟨rfl, rfl⟩
    simp [memOperand] at hx
  sameRegs := writeReg_regsBut s r v
  sameFlags _ _ := by rw [writeReg_flags]
  sp_eq := writeReg_sp s r v
  pc_eq _ := writeReg_pc s r v
  halted_eq _ := writeReg_halted s r v
  keepsInv := writeReg_wf r v

/-- SP after a pair was written. -/
theorem writePair_sp_eq (s : State) (rp : Pair) (v : Word) :
    (writePair s rp v).sp = spIfPair rp v s := by
  cases rp <;> rfl

theorem writePair_touches (s : State) (rp : Pair) (v : Word) :
    Touches s (writePair s rp v) [] (pairRegs rp) [] (spIfPair rp v s) false halts where
  sameMem x _ := readMem_writePair s rp v x
  sameRegs := writePair_regsBut s rp v
  sameFlags _ _ := by rw [writePair_flags]
  sp_eq := writePair_sp_eq s rp v
  pc_eq _ := writePair_pc s rp v
  halted_eq _ := writePair_halted s rp v
  keepsInv hs := by rwa [State.Inv, writePair_mem]

/-- SP, PC and the flags are read by no register and by no byte of memory. -/
theorem withSp_touches (s : State) (v : Word) : Touches s { s with sp := v } [] [] [] v false halts where
  sameMem _ _ := rfl
  sameRegs r _ _ := by cases r <;> rfl
  sameFlags _ _ := rfl
  sp_eq := rfl
  pc_eq _ := rfl
  halted_eq _ := rfl
  keepsInv := id

theorem jumpTo_touches (s : State) (x : Word) : Touches s (jumpTo s x) [] [] [] s.sp true halts where
  sameMem _ _ := rfl
  sameRegs r _ _ := by cases r <;> rfl
  sameFlags _ _ := rfl
  sp_eq := rfl
  pc_eq hj := by cases hj
  halted_eq _ := rfl
  keepsInv := id

theorem withFlags_touches (s : State) {f : Flags} {fs : List FlagName}
    (hf : ∀ n, n ∉ fs → flagOf f n = flagOf s.flags n) :
    Touches s { s with flags := f } [] [] fs s.sp false halts where
  sameMem _ _ := rfl
  sameRegs r _ _ := by cases r <;> rfl
  sameFlags := hf
  sp_eq := rfl
  pc_eq _ := rfl
  halted_eq _ := rfl
  keepsInv := id

/-! ## The named updates, as chains -/

/-- The five flags are all there are. -/
theorem toFlags_touches (s : State) (o : AluOut) :
    Touches s (toFlags s o) [] [] [.z, .s, .p, .cy, .ac] s.sp false halts :=
  withFlags_touches s fun n hn => by cases n <;> simp at hn

theorem toAcc_touches (s : State) (o : AluOut) :
    Touches s (toAcc s o) [] [.a] [.z, .s, .p, .cy, .ac] s.sp false halts :=
  (writeReg_touches s .a o.res).trans (toFlags_touches _ o)

/-- A write of CY alone. -/
theorem withCarry_touches (s : State) (cy : Bool) :
    Touches s { s with flags := { s.flags with cy := cy } } [] [] [.cy] s.sp false halts :=
  withFlags_touches s fun n hn => by
    cases n with
    | cy => simp at hn
    | _ => rfl

theorem rotated_touches (s : State) (v : Byte) (cy : Bool) :
    Touches s (rotated s v cy) [] [.a] [.cy] s.sp false halts :=
  (writeReg_touches s .a v).trans (withCarry_touches _ cy)

theorem toRegKeepCarry_touches (s : State) (r : Reg) (o : AluOut) :
    Touches s (toRegKeepCarry s r o) (memOperand r s) [r] [.z, .s, .p, .ac] s.sp false halts := by
  have hflags : Touches (writeReg s r o.res) (toRegKeepCarry s r o) [] [] [.z, .s, .p, .ac]
      (writeReg s r o.res).sp false halts :=
    withFlags_touches _ fun n hn => by
      cases n with
      | cy => rw [writeReg_flags]; rfl
      | _ => simp at hn
  simpa using (writeReg_touches s r o.res).trans hflags

theorem writeMem2_touches (s : State) (x v : Word) :
    Touches s (writeMem2 s x v) [x, x + 1] [] [] s.sp false halts :=
  (writeMem_touches s x (loByte v)).trans (writeMem_touches _ (x + 1) (hiByte v))

theorem push16_touches (s : State) (v : Word) :
    Touches s (push16 s v) (pushed true s) [] [] (spPushed true s) false halts :=
  ((writeMem_touches s (s.sp - 1) (hiByte v)).trans
    (writeMem_touches _ (s.sp - 2) (loByte v))).trans (withSp_touches _ (s.sp - 2))

theorem pop16_touches (s : State) : Touches s (pop16 s).2 [] [] [] (spPopped true s) false halts :=
  withSp_touches s (s.sp + 2)

theorem writePsw_touches (s : State) (v : Word) :
    Touches s (writePsw s v) [] [.a] [.z, .s, .p, .cy, .ac] s.sp false halts :=
  (writeReg_touches s .a (hiByte v)).trans
    (withFlags_touches _ fun n hn => by cases n <;> simp at hn)

theorem jumpIf_touches (s : State) (cond : Cond) (x : Word) :
    Touches s (jumpIf cond x s) [] [] [] s.sp true halts := by
  unfold jumpIf
  split
  · exact jumpTo_touches s x
  · exact .refl _ _ _ _ s

theorem callTo_touches (s : State) (x : Word) :
    Touches s (callTo s x) (pushed true s) [] [] (spPushed true s) true halts :=
  (push16_touches s s.pc).trans (jumpTo_touches _ x)

theorem callIf_touches (s : State) (cond : Cond) (x : Word) :
    Touches s (callIf cond x s) (pushed (condHolds s.flags cond) s) [] []
      (spPushed (condHolds s.flags cond) s) true halts := by
  unfold callIf
  cases condHolds s.flags cond
  · exact .refl _ _ _ _ s
  · exact callTo_touches s x

theorem returnFrom_touches (s : State) :
    Touches s (returnFrom s) [] [] [] (spPopped true s) true halts :=
  (pop16_touches s).trans (jumpTo_touches _ (pop16 s).1)

theorem returnIf_touches (s : State) (cond : Cond) :
    Touches s (returnIf cond s) [] [] [] (spPopped (condHolds s.flags cond) s) true halts := by
  unfold returnIf
  cases condHolds s.flags cond
  · exact .refl _ _ _ _ s
  · exact returnFrom_touches s

/-! ## Every instruction -/

/-- Every instruction completes and touches what the tables of Safety.lean list for it. -/
theorem exec_touches (i : Instr) (s : State) : ∃ t, exec i s = .next t ∧
    Touches s t (storesTo i s) (regsWritten i) (flagsWritten i) (spAfter i s) (writesPc i) (i = .hlt) := by
  cases i with
  | mov r _ | mvi r _ => exact ⟨_, rfl, writeReg_touches s r _⟩
  | inr r | dcr r => exact ⟨_, rfl, toRegKeepCarry_touches s r _⟩
  | lxi rp v => exact ⟨_, rfl, writePair_touches s rp v⟩
  | inx rp | dcx rp => cases rp <;> exact ⟨_, rfl, writePair_touches s _ _⟩
  | lhld => exact ⟨_, rfl, writePair_touches s .hl _⟩
  | lda | ldax | cma => exact ⟨_, rfl, writeReg_touches s .a _⟩
  | add | adc | sub | sbb | ana | xra | ora | adi | aci | sui | sbi | ani | xri | ori | daa =>
    exact ⟨_, rfl, toAcc_touches s _⟩
  | cmp | cpi => exact ⟨_, rfl, toFlags_touches s _⟩
  | rlc | rrc | ral | rar => exact ⟨_, rfl, rotated_touches s _ _⟩
  | stc | cmc => exact ⟨_, rfl, withCarry_touches s _⟩
  | dad => exact ⟨_, rfl, (writePair_touches s .hl _).trans (withCarry_touches _ _)⟩
  | xchg => exact ⟨_, rfl, (((writeReg_touches s .d s.h).trans (writeReg_touches _ .e s.l)).trans
      (writeReg_touches _ .h s.d)).trans (writeReg_touches _ .l s.e)⟩
  | sta | stax => exact ⟨_, rfl, writeMem_touches s _ _⟩
  | shld => exact ⟨_, rfl, writeMem2_touches s _ _⟩
  | xthl => exact ⟨_, rfl, (writeMem2_touches s s.sp _).trans (writePair_touches _ .hl _)⟩
  | sphl => exact ⟨_, rfl, withSp_touches s _⟩
  | push | pushPsw => exact ⟨_, rfl, push16_touches s _⟩
  | pop rp => cases rp <;> exact ⟨_, rfl, (pop16_touches s).trans (writePair_touches _ _ _)⟩
  | popPsw => exact ⟨_, rfl, (pop16_touches s).trans (writePsw_touches _ _)⟩
  | jmp | jmpAlias | pchl => exact ⟨_, rfl, jumpTo_touches s _⟩
  | jnz | jz | jnc | jc | jpo | jpe | jp | jm => exact ⟨_, rfl, jumpIf_touches s _ _⟩
  | call | callAlias => exact ⟨_, rfl, callTo_touches s _⟩
  | cnz | cz | cnc | cc | cpo | cpe | cp | cm => exact ⟨_, rfl, callIf_touches s _ _⟩
  | ret | retAlias => exact ⟨_, rfl, returnFrom_touches s⟩
  | rnz | rz | rnc | rc | rpo | rpe | rp | rm => exact ⟨_, rfl, returnIf_touches s _⟩
  | hlt =>
    refine ⟨_, rfl, fun _ _ => rfl, fun r _ _ => ?_, fun _ _ => rfl, rfl, fun _ => rfl,
      fun h => absurd rfl h, id⟩
    cases r <;> rfl
  | nop | nopAlias | unimplRst | unimplOut | unimplIn | unimplDi | unimplEi | unimpl0xED | unimpl0xFD =>
    exact ⟨_, rfl, .refl _ _ _ _ s⟩

end Sys2Proof.Machine
end

section
/-! Fetch and step (40_step_cycle.md R92, R94, R97): the instruction at PC is the one whose encoding stands
there, and it executes with PC past its bytes. -/

namespace Sys2Proof.Machine

/-- The bytes behind an instruction have no part in it. -/
theorem decodeOp_congr (ca : CallAlias) (op : Byte) {b2 b3 c2 c3 : Byte}
    (h : [b2, b3].take ((opcodeFormat ca op).length - 1) =
      [c2, c3].take ((opcodeFormat ca op).length - 1)) :
    decodeOp ca op b2 b3 = decodeOp ca op c2 c3 := by
  refine encodeWith_injective (ca := ca) (wf_decodeOp ca op b2 b3) (wf_decodeOp ca op c2 c3) ?_
  rw [encodeWith_decodeOp, encodeWith_decodeOp, h]

/-- The instruction at PC, decoded from the three bytes from PC on. -/
def instrAt (ca : CallAlias) (s : State) : Instr :=
  decodeOp ca (readMem s s.pc) (readMem s (s.pc + 1)) (readMem s (s.pc + 2))

theorem decodeFetch_f1 {ca : CallAlias} {op : Byte} (hf : opcodeFormat ca op = .f1) (s : State) :
    decodeFetch ca op s = (decodeOp ca op 0 0, s) := by
  simp only [decodeFetch, hf]

theorem decodeFetch_f2 {ca : CallAlias} {op : Byte} (hf : opcodeFormat ca op = .f2) (s : State) :
    decodeFetch ca op s = (decodeOp ca op (readMem s s.pc) 0, jumpTo s (s.pc + 1)) := by
  simp only [decodeFetch, hf]
  rfl

theorem decodeFetch_f3 {ca : CallAlias} {op : Byte} (hf : opcodeFormat ca op = .f3) (s : State) :
    decodeFetch ca op s =
      (decodeOp ca op (readMem s s.pc) (readMem s (s.pc + 1)), jumpTo s (s.pc + 2)) := by
  simp only [decodeFetch, hf, fetchWord_eq, loByte_wordOf, hiByte_wordOf]
  rfl

/-- A fetch answers the instruction at PC and moves PC past it (R97). -/
theorem fetchInstr_eq (ca : CallAlias) (s : State) :
    fetchInstr ca s = (instrAt ca s, jumpTo s (s.pc + BitVec.ofNat 16 (instrAt ca s).length)) := by
  have hfetch : fetchInstr ca s = decodeFetch ca (readMem s s.pc) (jumpTo s (s.pc + 1)) := rfl
  have hadd := fun y : Word => BitVec.add_assoc s.pc 1 y
  have hcongr := @decodeOp_congr ca (readMem s s.pc) (readMem s (s.pc + 1)) (readMem s (s.pc + 2))
  rw [hfetch, instrAt, Instr.length, format_decodeOp]
  cases hf : opcodeFormat ca (readMem s s.pc) <;> rw [hf] at hcongr
  case f1 =>
    rw [decodeFetch_f1 hf, hcongr (c2 := 0) (c3 := 0) rfl]
    rfl
  case f2 =>
    rw [decodeFetch_f2 hf, hcongr (c2 := readMem s (s.pc + 1)) (c3 := 0) rfl, jumpTo_pc, hadd]
    rfl
  case f3 =>
    rw [decodeFetch_f3 hf, jumpTo_pc, hadd, hadd]
    rfl

/-- Settles O10: the equation of the fetch. -/
theorem executeStartsPastTheInstruction : Obligations.ExecuteStartsPastTheInstruction := fetchInstr_eq

/-- The instruction at PC is the one whose encoding stands there. -/
theorem instrAt_of_encoding {ca : CallAlias} {s : State} {i : Instr} (hwf : i.wf = true)
    (hbytes : ∀ k v, (encodeWith ca i)[k]? = some v → readMem s (s.pc + BitVec.ofNat 16 k) = v) :
    instrAt ca s = i := by
  have hop : readMem s s.pc = opcodeByte ca i := by simpa using hbytes 0 _ rfl
  have hops : operandBytes i <+: [readMem s (s.pc + 1), readMem s (s.pc + 2)] := by
    refine List.prefix_iff_getElem?.2 fun k hk => ?_
    have hbyte := hbytes (k + 1) _ (List.getElem?_eq_getElem hk)
    have hlen := length_operandBytes i
    have hle := length_le_three i
    match k with
    | 0 | 1 => exact congrArg some hbyte
    | k + 2 => omega
  rw [instrAt, hop, decodeOp_opcodeByte ca hwf hops]

theorem stepWith_of_halted (ca : CallAlias) {s : State} (h : s.halted = true) :
    stepWith ca s = .next s := by
  simp [stepWith, h]

/-- A running step executes the instruction at PC with PC past it (R94, R97). -/
theorem stepWith_eq_exec (ca : CallAlias) {s : State} (h : s.halted = false) :
    stepWith ca s =
      exec (instrAt ca s) { s with pc := s.pc + BitVec.ofNat 16 (instrAt ca s).length } := by
  rw [stepWith_of_running ca h, fetchInstr_eq]
  rfl

/-- Settles O11: the bytes of an encoding at PC decode to the instruction. -/
theorem stepRunsTheInstructionAtPc : Obligations.StepRunsTheInstructionAtPc := by
  refine fun ca s => ⟨fun i hwf hrunning hbytes => ?_, stepWith_of_halted ca, rfl⟩
  rw [stepWith_eq_exec ca hrunning, instrAt_of_encoding hwf hbytes]

/-- Settles O12: by induction on the number of steps. -/
theorem haltedRunChangesNothing : Obligations.HaltedRunChangesNothing := by
  intro s hhalted k
  have hstep : core.step s = .next s := stepWith_of_halted callAlias hhalted
  induction k with
  | zero => rfl
  | succ k ih => simpa only [Host.Core.run, hstep] using ih

/-- Settles O53: the store writes the byte that the next fetch reads, whose encoding it is. -/
theorem storeIntoTheNextInstructionIsFetched :
    Obligations.StoreIntoTheNextInstructionIsFetched := by
  intro ca s i hrunning hwf hop hlo hhi hencode
  have hword : wordOf (readMem s (s.pc + 2)) (readMem s (s.pc + 1)) = s.pc + 3 := by
    apply BitVec.eq_of_toNat_eq
    rw [wordOf_toNat, hlo, hhi]
    omega
  have hsta : instrAt ca s = .sta (s.pc + 3) := by
    rw [instrAt, hop, ← hword]
    rfl
  have hstep : stepWith ca s = .next (writeMem (jumpTo s (s.pc + 3)) (s.pc + 3) s.a) := by
    rw [stepWith_eq_exec ca hrunning, hsta]
    rfl
  refine ⟨_, hstep, readMem_writeMem_self _ _ _, writeMem_sameMemBut _ _ _, rfl, ?_⟩
  have hnext : instrAt ca (writeMem (jumpTo s (s.pc + 3)) (s.pc + 3) s.a) = i := by
    refine instrAt_of_encoding hwf fun k v hk => ?_
    rw [hencode] at hk
    match k with
    | 0 =>
      obtain rfl : s.a = v := Option.some.inj hk
      simp
  have hlen : i.length = 1 := by rw [← length_encodeWith ca, hencode]; rfl
  have hpc : s.pc + 3 + BitVec.ofNat 16 1 = s.pc + 4 := BitVec.add_assoc s.pc 3 1
  rw [stepWith_eq_exec ca (by exact hrunning), hnext, hlen, writeMem_pc, jumpTo_pc, hpc]

end Sys2Proof.Machine
end

section
/-! The tables of the spec (10_state.md section 10, 20_memory.md section 5), HALTED (R21, R95) and the memory
form (log 21), each read off what an instruction touches. -/

namespace Sys2Proof.Machine

/-- Settles O29: the byte frame of `exec_touches`. -/
theorem storesOnlyWhereTheTableSays : Obligations.StoresOnlyWhereTheTableSays := fun i s =>
  (exec_touches i s).imp fun _ ⟨ht, htouches⟩ => ⟨ht, htouches.sameMem⟩

/-- Settles O30: the register frame of `exec_touches`. -/
theorem writesOnlyItsRegisters : Obligations.WritesOnlyItsRegisters := fun i s =>
  (exec_touches i s).imp fun _ ⟨ht, htouches⟩ => ⟨ht, htouches.sameRegs⟩

/-- Settles O31: the flag frame of `exec_touches`. -/
theorem writesOnlyItsFlags : Obligations.WritesOnlyItsFlags := fun i s =>
  (exec_touches i s).imp fun _ ⟨ht, htouches⟩ => ⟨ht, htouches.sameFlags⟩

/-- Settles O32: the stack pointer of `exec_touches`. -/
theorem stackPointerChanges : Obligations.StackPointerChanges := fun i s =>
  (exec_touches i s).imp fun _ ⟨ht, htouches⟩ => ⟨ht, htouches.sp_eq⟩

/-- Settles O33: the program counter of `exec_touches`. -/
theorem onlyTransfersWritePc : Obligations.OnlyTransfersWritePc := fun i s =>
  (exec_touches i s).imp fun _ ⟨ht, htouches⟩ => ⟨ht, htouches.pc_eq⟩

/-! ## HALTED -/

/-- Reset puts the register bank at its reset values and leaves memory alone (R28, R281). -/
theorem hostAct_reset (ca : CallAlias) (s : State) : hostAct ca .reset s = .next (resetCore s) := rfl

/-- Settles O15: HLT's own meaning, the frame of every other instruction, and the two host actions. -/
theorem onlyHltWritesHalted : Obligations.OnlyHltWritesHalted := by
  intro i s
  obtain ⟨t, ht, htouches⟩ := exec_touches i s
  refine ⟨⟨t, ht, ?_, htouches.halted_eq⟩, rfl,
    fun ca v => ⟨_, _, hostAct_reset ca s, rfl, rfl, rfl⟩⟩
  rintro rfl
  cases ht
  rfl

/-- The opcode of HLT is 0x76, and nothing else is. -/
theorem instrAt_eq_hlt_iff (ca : CallAlias) (s : State) :
    instrAt ca s = .hlt ↔ readMem s s.pc = 0x76 := by
  constructor
  · intro h
    rw [← opcodeByte_decodeOp ca (readMem s s.pc) (readMem s (s.pc + 1)) (readMem s (s.pc + 2)),
      ← instrAt, h]
    rfl
  · intro h
    rw [instrAt, h]
    rfl

/-- A running step over the byte 0x76 moves PC past it and halts (R95). -/
theorem stepWith_hlt (ca : CallAlias) {s : State} (hrunning : s.halted = false)
    (hop : readMem s s.pc = 0x76) :
    stepWith ca s = .next { s with pc := s.pc + 1, halted := true } := by
  rw [stepWith_eq_exec ca hrunning, (instrAt_eq_hlt_iff ca s).2 hop]
  rfl

/-- A step ends in Halted from Halted and over HLT, and otherwise in Running (R95). -/
theorem stepWith_halted_iff (ca : CallAlias) (s : State) :
    ∃ t, stepWith ca s = .next t ∧ (t.halted = true ↔ s.halted = true ∨ readMem s s.pc = 0x76) := by
  cases hs : s.halted with
  | true => exact ⟨s, stepWith_of_halted ca hs, by simp [hs]⟩
  | false =>
    by_cases hop : readMem s s.pc = 0x76
    · exact ⟨_, stepWith_hlt ca hs hop, by simp [hop]⟩
    · rw [stepWith_eq_exec ca hs]
      obtain ⟨t, ht, htouches⟩ := exec_touches (instrAt ca s)
        { s with pc := s.pc + BitVec.ofNat 16 (instrAt ca s).length }
      have hne : ¬ instrAt ca s = .hlt := fun h => hop ((instrAt_eq_hlt_iff ca s).1 h)
      have hrunning : t.halted = false := (htouches.halted_eq hne).trans hs
      refine ⟨t, ht, ?_⟩
      rw [hrunning]
      exact iff_of_false Bool.false_ne_true (not_or.2 ⟨Bool.false_ne_true, hop⟩)

/-- Settles O14: a step by the opcode at PC, reset and the host's write of HALTED. -/
theorem controlFsmTransitions : Obligations.ControlFsmTransitions := fun ca s =>
  ⟨stepWith_halted_iff ca s, stepWith_hlt ca, stepWith_of_halted ca, rfl, fun _ => rfl⟩

/-! ## The memory form -/

/-- A step keeps the memory form: the fetch leaves memory alone, and every meaning keeps it. -/
theorem stepWith_keepsInv (ca : CallAlias) {s : State} (hs : s.Inv) :
    ∃ t, stepWith ca s = .next t ∧ t.Inv := by
  cases hhalted : s.halted with
  | true => exact ⟨s, stepWith_of_halted ca hhalted, hs⟩
  | false =>
    rw [stepWith_eq_exec ca hhalted]
    obtain ⟨t, ht, htouches⟩ := exec_touches (instrAt ca s)
      { s with pc := s.pc + BitVec.ofNat 16 (instrAt ca s).length }
    exact ⟨t, ht, htouches.keepsInv hs⟩

/-- Every host action keeps the memory form: what it stores goes through `writeMem`. -/
theorem hostAct_keepsInv (ca : CallAlias) (act : HostAction) {s : State} (hs : s.Inv) :
    ∃ t, hostAct ca act s = .next t ∧ t.Inv := by
  cases act with
  | step => exact stepWith_keepsInv ca hs
  | store r v => exact ⟨_, rfl, writeReg_wf r v hs⟩
  | storeX p v => cases p <;> exact ⟨_, rfl, hs⟩
  | push v => exact ⟨_, rfl, push16_wf v hs⟩
  | storeMem x v => exact ⟨_, rfl, writeMem_wf x _ hs⟩
  | loadProgram bytes => exact ⟨_, rfl, writeBytes_wf bytes _ hs⟩
  | reset | setFlag | toggleCarry | setPC | setSP | setStopped | pop => exact ⟨_, rfl, hs⟩

/-- Any number of steps keeps the memory form. -/
theorem run_keepsInv (k : Nat) {s : State} (hs : s.Inv) : ∃ t, core.run k s = .next t ∧ t.Inv := by
  induction k generalizing s with
  | zero => exact ⟨s, rfl, hs⟩
  | succ k ih =>
    obtain ⟨t, ht, hinv⟩ := stepWith_keepsInv callAlias hs
    have hstep : core.step s = .next t := ht
    simpa only [Host.Core.run, hstep] using ih hinv

/-- Settles O27: one step, one host action and, by induction, any run. -/
theorem stepsAndHostActionsKeepTheInvariant : Obligations.StepsAndHostActionsKeepTheInvariant :=
  fun ca _ hs => ⟨stepWith_keepsInv ca hs, stepWith_keepsInv callAlias hs,
    fun act => hostAct_keepsInv ca act hs, fun k => run_keepsInv k hs⟩

/-- Settles O26: the reset memory lists nothing. -/
theorem resetMeetsTheInvariant : Obligations.ResetMeetsTheInvariant := reset_mem_wf

end Sys2Proof.Machine
end

section
/-! Noninterference of a byte (20_memory.md section 5): two runs of an instruction from states that differ in
one byte it does not read end in states that differ in that byte at most. -/

namespace Sys2Proof.Machine

/-- `u` is `t` but for the byte at `x`: that byte is `v` in `u`, or the same in both when it is one of `xs`,
the addresses stored to since. -/
structure DiffersAt (x : Word) (v : Byte) (t u : State) (xs : List Word) : Prop where
  registers : u = { t with mem := u.mem }
  others : ∀ y, y ≠ x → readMem u y = readMem t y
  stored : x ∈ xs → readMem u x = readMem t x
  unstored : x ∉ xs → readMem u x = v

section Updates

variable {x : Word} {v : Byte}

/-- Changing a byte, and then registers in the same way in both states. -/
theorem DiffersAt.ofRegisters {s t u : State} (ht : t.mem = s.mem)
    (hu : u = { t with mem := (writeMem s x v).mem }) : DiffersAt x v t u [] where
  registers := by rw [hu]
  others y hy := by
    rw [hu, readMem_congr ht, ← readMem_writeMem_other s v hy]
    rfl
  stored hx := by cases hx
  unstored _ := by
    rw [hu]
    exact readMem_writeMem_self s x v

/-- A state and the same with the byte changed. -/
theorem DiffersAt.start (s : State) : DiffersAt x v s (writeMem s x v) [] := .ofRegisters rfl rfl

/-- The same store in both states. -/
theorem DiffersAt.writeMem {xs : List Word} {t u : State} (h : DiffersAt x v t u xs) (y : Word)
    (b : Byte) : DiffersAt x v (writeMem t y b) (writeMem u y b) (xs ++ [y]) where
  registers := by
    rw [h.registers]
    rfl
  others z hz := by rw [readMem_writeMem, readMem_writeMem, h.others z hz]
  stored hx := by
    rw [readMem_writeMem, readMem_writeMem]
    split
    · rfl
    · rename_i hxy
      exact h.stored (by simpa [hxy] using hx)
  unstored hx := by
    rw [List.mem_append, List.mem_singleton, not_or] at hx
    rw [readMem_writeMem_other u b hx.2]
    exact h.unstored hx.1

/-- The same change of the register bank in both states: one that does not look at memory. -/
theorem DiffersAt.map {xs : List Word} {t u : State} (h : DiffersAt x v t u xs) (f : State → State)
    (hf : ∀ (s : State) (m : Memory), f { s with mem := m } = { f s with mem := m }) :
    DiffersAt x v (f t) (f u) xs := by
  have hmem : ∀ s, (f s).mem = s.mem := fun s => by
    have h := congrArg State.mem (hf s s.mem)
    exact h
  constructor
  case registers => rw [hmem, ← hf, ← h.registers]
  case others =>
    intro y hy
    rw [readMem_congr (hmem u), readMem_congr (hmem t), h.others y hy]
  case stored =>
    intro hx
    rw [readMem_congr (hmem u), readMem_congr (hmem t), h.stored hx]
  case unstored =>
    intro hx
    rw [readMem_congr (hmem u), h.unstored hx]

/-! ## What is read -/

theorem readMem_unread (s : State) {y : Word} (h : x ∉ [y]) : readMem (writeMem s x v) y = readMem s y :=
  readMem_writeMem_other s v (Ne.symm (by simpa using h))

theorem readMem2_unread (s : State) {y : Word} (h : x ∉ [y, y + 1]) :
    readMem2 (writeMem s x v) y = readMem2 s y := by
  rw [List.mem_cons, not_or] at h
  rw [readMem2, readMem2, readMem_unread s h.2, readMem_unread s (by simpa using h.1)]

theorem readReg_unread (s : State) {r : Reg} (h : x ∉ memOperand r s) :
    readReg (writeMem s x v) r = readReg s r := by
  cases r with
  | m => exact readMem_unread s h
  | _ => rfl

theorem readPair_writeMem (s : State) (y : Word) (b : Byte) (rp : Pair) :
    readPair (writeMem s y b) rp = readPair s rp := by
  cases rp <;> rfl

/-! ## The named updates -/

theorem writeReg_differsAt (s : State) (r : Reg) (b : Byte) :
    DiffersAt x v (writeReg s r b) (writeReg (writeMem s x v) r b) (memOperand r s) := by
  cases r with
  | m => exact (DiffersAt.start s).writeMem (hlWord s) b
  | _ => exact .ofRegisters rfl rfl

theorem toRegKeepCarry_differsAt (s : State) (r : Reg) (o : AluOut) :
    DiffersAt x v (toRegKeepCarry s r o) (toRegKeepCarry (writeMem s x v) r o) (memOperand r s) :=
  (writeReg_differsAt s r o.res).map
    (fun w => { w with flags := { o.flags with cy := s.flags.cy } }) fun _ _ => rfl

theorem writePair_differsAt {xs : List Word} {t u : State} (h : DiffersAt x v t u xs) (rp : Pair)
    (w : Word) : DiffersAt x v (writePair t rp w) (writePair u rp w) xs :=
  h.map (writePair · rp w) fun _ _ => by cases rp <;> rfl

theorem writeMem2_differsAt (s : State) (y w : Word) :
    DiffersAt x v (writeMem2 s y w) (writeMem2 (writeMem s x v) y w) [y, y + 1] :=
  ((DiffersAt.start s).writeMem y (loByte w)).writeMem (y + 1) (hiByte w)

theorem push16_differsAt (s : State) (w : Word) :
    DiffersAt x v (push16 s w) (push16 (writeMem s x v) w) (pushed true s) :=
  (((DiffersAt.start s).writeMem (s.sp - 1) (hiByte w)).writeMem (s.sp - 2) (loByte w)).map
    (fun t => { t with sp := s.sp - 2 }) fun _ _ => rfl

theorem jumpIf_differsAt (s : State) (cond : Cond) (y : Word) :
    DiffersAt x v (jumpIf cond y s) (jumpIf cond y (writeMem s x v)) [] := by
  unfold jumpIf
  rw [writeMem_flags]
  cases condHolds s.flags cond <;> exact .ofRegisters rfl rfl

theorem callTo_differsAt (s : State) (y : Word) :
    DiffersAt x v (callTo s y) (callTo (writeMem s x v) y) (pushed true s) :=
  (push16_differsAt s s.pc).map (jumpTo · y) fun _ _ => rfl

theorem callIf_differsAt (s : State) (cond : Cond) (y : Word) :
    DiffersAt x v (callIf cond y s) (callIf cond y (writeMem s x v))
      (pushed (condHolds s.flags cond) s) := by
  unfold callIf
  rw [writeMem_flags]
  cases condHolds s.flags cond
  · exact .start s
  · exact callTo_differsAt s y

theorem pop16_unread (s : State) (h : x ∉ popped true s) :
    (pop16 (writeMem s x v)).1 = (pop16 s).1 := readMem2_unread s h

theorem returnFrom_differsAt (s : State) (h : x ∉ popped true s) :
    DiffersAt x v (returnFrom s) (returnFrom (writeMem s x v)) [] := by
  unfold returnFrom
  rw [pop16_unread s h]
  exact .ofRegisters rfl rfl

theorem returnIf_differsAt (s : State) (cond : Cond) (h : x ∉ popped (condHolds s.flags cond) s) :
    DiffersAt x v (returnIf cond s) (returnIf cond (writeMem s x v)) [] := by
  unfold returnIf
  rw [writeMem_flags]
  revert h
  cases condHolds s.flags cond
  · exact fun _ => .start s
  · exact returnFrom_differsAt s

/-! ## Every instruction -/

/-- Two runs from states that differ in a byte the instruction does not read. -/
theorem exec_differsAt (i : Instr) (s : State) (hx : x ∉ loadsFrom i s) : ∃ t u,
    exec i s = .next t ∧ exec i (writeMem s x v) = .next u ∧ DiffersAt x v t u (storesTo i s) := by
  cases i with
  | add | adc | sub | sbb | ana | xra | ora | cmp =>
    refine ⟨_, _, rfl, rfl, ?_⟩
    rw [readReg_unread s hx]
    exact .ofRegisters rfl rfl
  | mov r _ =>
    refine ⟨_, _, rfl, rfl, ?_⟩
    rw [readReg_unread s hx]
    exact writeReg_differsAt s r _
  | inr r | dcr r =>
    refine ⟨_, _, rfl, rfl, ?_⟩
    rw [readReg_unread s hx]
    exact toRegKeepCarry_differsAt s r _
  | mvi r => exact ⟨_, _, rfl, rfl, writeReg_differsAt s r _⟩
  | lxi rp => exact ⟨_, _, rfl, rfl, writePair_differsAt (.start s) rp _⟩
  | inx rp | dcx rp | dad rp => cases rp <;> exact ⟨_, _, rfl, rfl, .ofRegisters rfl rfl⟩
  | lda =>
    refine ⟨_, _, rfl, rfl, ?_⟩
    rw [readMem_unread s hx]
    exact .ofRegisters rfl rfl
  | ldax =>
    refine ⟨_, _, rfl, rfl, ?_⟩
    rw [readPair_writeMem, readMem_unread s hx]
    exact .ofRegisters rfl rfl
  | lhld =>
    refine ⟨_, _, rfl, rfl, ?_⟩
    rw [readMem2_unread s hx]
    exact writePair_differsAt (.start s) .hl _
  | sta => exact ⟨_, _, rfl, rfl, (DiffersAt.start s).writeMem _ _⟩
  | stax p => cases p <;> exact ⟨_, _, rfl, rfl, (DiffersAt.start s).writeMem _ _⟩
  | shld => exact ⟨_, _, rfl, rfl, writeMem2_differsAt s _ _⟩
  | xthl =>
    refine ⟨_, _, rfl, rfl, ?_⟩
    rw [writeMem_sp, readMem2_unread s hx]
    exact writePair_differsAt (writeMem2_differsAt s s.sp _) .hl _
  | push rp => cases rp <;> exact ⟨_, _, rfl, rfl, push16_differsAt s _⟩
  | pushPsw => exact ⟨_, _, rfl, rfl, push16_differsAt s _⟩
  | pop rp =>
    refine ⟨_, _, rfl, rfl, ?_⟩
    rw [pop16_unread s hx]
    exact writePair_differsAt (.ofRegisters rfl rfl) (stackPair rp) _
  | popPsw =>
    refine ⟨_, _, rfl, rfl, ?_⟩
    rw [pop16_unread s hx]
    exact .ofRegisters rfl rfl
  | call | callAlias => exact ⟨_, _, rfl, rfl, callTo_differsAt s _⟩
  | cnz | cz | cnc | cc | cpo | cpe | cp | cm => exact ⟨_, _, rfl, rfl, callIf_differsAt s _ _⟩
  | jnz | jz | jnc | jc | jpo | jpe | jp | jm => exact ⟨_, _, rfl, rfl, jumpIf_differsAt s _ _⟩
  | ret | retAlias => exact ⟨_, _, rfl, rfl, returnFrom_differsAt s hx⟩
  | rnz | rz | rnc | rc | rpo | rpe | rp | rm => exact ⟨_, _, rfl, rfl, returnIf_differsAt s _ hx⟩
  | _ => exact ⟨_, _, rfl, rfl, .ofRegisters rfl rfl⟩

end Updates

/-- Settles O34: `exec_differsAt`, field by field. -/
theorem unreadBytesHaveNoInfluence : Obligations.UnreadBytesHaveNoInfluence := by
  intro i s x v hx
  obtain ⟨t, u, ht, hu, hdiffers⟩ := exec_differsAt i s hx
  exact ⟨t, u, ht, hu, hdiffers.registers, hdiffers.others, hdiffers.stored, hdiffers.unstored⟩

end Sys2Proof.Machine
end

section
/-! Words in memory and on the stack (20_memory.md sections 2 to 4, 45_stack_machine_control.md section 1). -/

namespace Sys2Proof.Machine

/-! ## Words -/

/-- The next address is another one, also at 0xFFFF (R47). -/
theorem word_ne_add_one (x : Word) : x ≠ x + 1 := by
  bv_omega

@[simp] theorem readMem_writeMem2_low (s : State) (x v : Word) :
    readMem (writeMem2 s x v) x = loByte v := by
  rw [readMem_writeMem2, if_neg (word_ne_add_one x), if_pos rfl]

@[simp] theorem readMem_writeMem2_high (s : State) (x v : Word) :
    readMem (writeMem2 s x v) (x + 1) = hiByte v := by
  rw [readMem_writeMem2, if_pos rfl]

/-- A word reads what was written to it (R43). -/
@[simp] theorem readMem2_writeMem2 (s : State) (x v : Word) : readMem2 (writeMem2 s x v) x = v := by
  rw [readMem2, readMem_writeMem2_low, readMem_writeMem2_high, wordOf_hiByte_loByte]

/-- Settles O18: the two byte reads after a word write. -/
theorem wordsAreLittleEndian : Obligations.WordsAreLittleEndian := by
  intro s x v
  refine ⟨rfl, readMem2_writeMem2 s x v, ?_, ?_, writeMem2_sameMemBut s x v, _, rfl⟩
  · rw [readMem_writeMem2_low, loByte_toNat]
  · rw [readMem_writeMem2_high, hiByte_toNat]

/-! ## Push and pop -/

/-- The low byte of a pushed word is at the new SP (R230). -/
theorem readMem_push16_low (s : State) (v : Word) : readMem (push16 s v) (s.sp - 2) = loByte v := by
  rw [readMem_push16, if_pos rfl]

/-- SP - 2 and the address after it. -/
theorem sub_two_add_one (x : Word) : x - 2 + 1 = x - 1 := by
  bv_omega

theorem sub_two_add_two (x : Word) : x - 2 + 2 = x := BitVec.sub_add_cancel x 2

/-- The high byte of a pushed word is above it. -/
theorem readMem_push16_high (s : State) (v : Word) : readMem (push16 s v) (s.sp - 1) = hiByte v := by
  have hne : s.sp - 1 ≠ s.sp - 2 := by
    rw [← sub_two_add_one]
    exact (word_ne_add_one _).symm
  rw [readMem_push16, if_neg hne, if_pos rfl]

/-- The pushed word is the word at SP. -/
@[simp] theorem stackTop_push16 (s : State) (v : Word) : stackTop (push16 s v) = v := by
  rw [stackTop, push16_sp, sub_two_add_one, readMem_push16_high, readMem_push16_low,
    wordOf_hiByte_loByte]

/-- A push writes memory and SP, and nothing else. -/
theorem push16_eq (s : State) (v : Word) :
    push16 s v = { s with sp := s.sp - 2, mem := (push16 s v).mem } := rfl

/-- Settles O19: the layout of any push, and of the first push after reset. -/
theorem pushLayout : Obligations.PushLayout := by
  have hbytes : ∀ (s : State) (v : Word), (readMem (push16 s v) (s.sp - 1)).toNat = v.toNat / 256 ∧
      (readMem (push16 s v) (s.sp - 2)).toNat = v.toNat % 256 := fun s v => by
    rw [readMem_push16_high, readMem_push16_low, hiByte_toNat, loByte_toNat]
    exact ⟨rfl, rfl⟩
  refine ⟨fun s v => ?anySp, fun v => ?fromReset⟩
  case anySp =>
    have hsp : (s.sp - 2).toNat = (s.sp.toNat + 65534) % 65536 := by
      bv_omega
    exact ⟨(hbytes s v).1, (hbytes s v).2, hsp, stackTop_push16 s v, push16_sameMemBut s v,
      push16_eq s v⟩
  case fromReset =>
    refine ⟨(hbytes State.reset v).1, (hbytes State.reset v).2, rfl, ?_⟩
    exact push16_sameMemBut State.reset v 0xFFFF (by decide)

/-- A pop answers the word at SP and adds 2 to SP (R231). -/
theorem pop16_eq (s : State) : pop16 s = (stackTop s, { s with sp := s.sp + 2 }) := rfl

/-- A pop undoes the SP of a push and leaves the pushed bytes where they are. -/
theorem pop16_push16 (s : State) (v : Word) :
    pop16 (push16 s v) = (v, { push16 s v with sp := s.sp }) := by
  rw [pop16_eq, stackTop_push16, push16_sp, sub_two_add_two]

/-! ## Any number of pushes and pops -/

theorem pushAll_append (s : State) (ws vs : List Word) :
    pushAll s (ws ++ vs) = pushAll (pushAll s ws) vs := by
  induction ws generalizing s with
  | nil => rfl
  | cons w rest ih => exact ih (push16 s w)

/-- Pushes move SP down by two bytes each. -/
theorem pushAll_sp (s : State) (ws : List Word) :
    (pushAll s ws).sp = s.sp - BitVec.ofNat 16 (2 * ws.length) := by
  induction ws generalizing s with
  | nil => simp [pushAll]
  | cons w rest ih =>
    rw [pushAll, ih, push16_sp, List.length_cons]
    bv_omega

/-- The `n` words from the address `x` on, the one at `x` first. -/
def wordsFrom (s : State) (x : Word) : Nat → List Word
  | 0 => []
  | n + 1 => readMem2 s x :: wordsFrom s (x + 2) n

/-- Words are read from their bytes. -/
theorem wordsFrom_congr {s t : State} {x : Word} {n : Nat}
    (h : ∀ k, k < 2 * n → readMem t (x + BitVec.ofNat 16 k) = readMem s (x + BitVec.ofNat 16 k)) :
    wordsFrom t x n = wordsFrom s x n := by
  induction n generalizing x with
  | zero => rfl
  | succ n ih =>
    have hlow : readMem t x = readMem s x := by simpa using h 0 (by omega)
    have hhigh : readMem t (x + 1) = readMem s (x + 1) := h 1 (by omega)
    have hrest : wordsFrom t (x + 2) n = wordsFrom s (x + 2) n := ih fun k hk => by
      have hk2 : x + 2 + BitVec.ofNat 16 k = x + BitVec.ofNat 16 (k + 2) := by bv_omega
      rw [hk2, h (k + 2) (by omega)]
    rw [wordsFrom, wordsFrom, readMem2, readMem2, hlow, hhigh, hrest]

/-- Pops read the words from SP on, and move SP past them. -/
theorem popMany_eq (s : State) (n : Nat) :
    popMany s n = (wordsFrom s s.sp n, { s with sp := s.sp + BitVec.ofNat 16 (2 * n) }) := by
  induction n generalizing s with
  | zero => simp [popMany, wordsFrom]
  | succ n ih =>
    have hwords : wordsFrom (pop16 s).2 (s.sp + 2) n = wordsFrom s (s.sp + 2) n :=
      wordsFrom_congr fun _ _ => rfl
    have hsp : s.sp + 2 + BitVec.ofNat 16 (2 * n) = s.sp + BitVec.ofNat 16 (2 * (n + 1)) := by bv_omega
    rw [popMany, ih, pop16_state_sp, hwords, hsp]
    rfl

/-- A push leaves the words from the old SP on alone, as long as they do not reach round to it. -/
theorem wordsFrom_push16 (s : State) (w : Word) {n : Nat} (hn : n < 32768) :
    wordsFrom (push16 s w) s.sp n = wordsFrom s s.sp n := by
  refine wordsFrom_congr fun k hk => push16_sameMemBut s w _ ?_
  rw [List.mem_pair, not_or]
  exact ⟨by bv_omega, by bv_omega⟩

/-- After pushes the stack holds the words, the last one pushed first. -/
theorem wordsFrom_pushAll (s : State) (ws : List Word) (hlen : ws.length ≤ 32768) :
    wordsFrom (pushAll s ws) (pushAll s ws).sp ws.length = ws.reverse := by
  induction ws using List.reverseRecOn with
  | nil => rfl
  | append_singleton ws w ih =>
    rw [List.length_append, List.length_singleton] at hlen ⊢
    have htop : readMem2 (push16 (pushAll s ws) w) ((pushAll s ws).sp - 2) = w :=
      stackTop_push16 (pushAll s ws) w
    rw [pushAll_append, pushAll, pushAll, push16_sp, wordsFrom, htop, sub_two_add_two,
      wordsFrom_push16 _ _ (by omega), ih (by omega), List.reverse_append]
    rfl

/-- Settles O20: the words from SP on after the pushes, and SP back by as much as it went down. -/
theorem stackIsLastInFirstOut : Obligations.StackIsLastInFirstOut := by
  refine ⟨pop16_eq, fun s ws hlen => ?_⟩
  rw [popMany_eq, wordsFrom_pushAll s ws hlen, pushAll_sp, BitVec.sub_add_cancel]
  exact ⟨rfl, rfl⟩

/-! ## A call and its return -/

/-- A call writes PC, SP and memory, and nothing else. -/
theorem callTo_eq (s : State) (addr : Word) :
    callTo s addr = { s with pc := addr, sp := s.sp - 2, mem := (callTo s addr).mem } :=
  congrArg (jumpTo · addr) (push16_eq s s.pc)

theorem readMem_callTo (s : State) (addr x : Word) :
    readMem (callTo s addr) x = readMem (push16 s s.pc) x := readMem_congr (callTo_mem s addr) x

theorem callTo_sameMemBut (s : State) (addr : Word) :
    SameMemBut [s.sp - 1, s.sp - 2] s (callTo s addr) :=
  fun x hx => (readMem_callTo s addr x).trans (push16_sameMemBut s s.pc x hx)

/-- A return moves PC to the word at SP and SP past it, and changes nothing else (R209). -/
theorem returnFrom_eq (s : State) :
    returnFrom s = { s with pc := stackTop s, sp := s.sp + 2 } := rfl

/-- A call and a return leave the pushed bytes in memory and nothing else. -/
theorem returnFrom_callTo (s : State) (addr : Word) :
    returnFrom (callTo s addr) = { s with mem := (callTo s addr).mem } := by
  have htop : stackTop (callTo s addr) = s.pc := stackTop_push16 s s.pc
  rw [returnFrom_eq, htop, callTo_sp, sub_two_add_two]
  exact congrArg (fun t : State => { t with pc := s.pc, sp := s.sp }) (callTo_eq s addr)

/-- Settles O57: the call pushes PC and the return pops it; the pushed bytes stay. -/
theorem returnComesBackFromCall : Obligations.ReturnComesBackFromCall := fun addr s =>
  ⟨callTo s addr, returnFrom (callTo s addr), rfl, rfl, rfl, returnFrom_callTo s addr,
    fun x hx => (readMem_congr (returnFrom_mem _) x).trans (callTo_sameMemBut s addr x hx)⟩

end Sys2Proof.Machine
end

section
/-! PSW and reset (10_state.md sections 6 and 9), and the transfers of pairs and of A
(41_data_transfer.md). -/

namespace Sys2Proof.Machine

/-! ## The pair writes of two bytes -/

theorem writePair_bc (s : State) (hi lo : Byte) :
    writePair s .bc (hi ++ lo) = { s with b := hi, c := lo } := by
  rw [writePair, ← wordOf, hiByte_wordOf, loByte_wordOf]

theorem writePair_de (s : State) (hi lo : Byte) :
    writePair s .de (hi ++ lo) = { s with d := hi, e := lo } := by
  rw [writePair, ← wordOf, hiByte_wordOf, loByte_wordOf]

theorem writePair_hl (s : State) (hi lo : Byte) :
    writePair s .hl (hi ++ lo) = { s with h := hi, l := lo } := by
  rw [writePair, ← wordOf, hiByte_wordOf, loByte_wordOf]

/-! ## PSW -/

/-- Settles O23: the bytes of a word as numbers, and the weights of the flags. -/
theorem pswPacksFlags : Obligations.PswPacksFlags :=
  ⟨fun s => ⟨wordOf_toNat s.a (packFlags s.flags), packFlags_toNat s.flags⟩, rfl⟩

/-- The low byte of a word has the word's bits. -/
theorem getLsbD_loByte (v : Word) (k : Nat) (hk : k < 8) : (loByte v).getLsbD k = v.getLsbD k := by
  simp [loByte, hk]

/-- What a PSW write leaves of a word: bits 5, 3 and 1 are gone (R20). -/
theorem readPsw_writePsw (s : State) (v : Word) : readPsw (writePsw s v) = v &&& 0xFFD5 := by
  have hpack : readPsw (writePsw s v) = hiByte v ++ (loByte v &&& 0xD5) :=
    congrArg (wordOf (hiByte v)) (packFlags_unpackFlags (loByte v))
  have hkeep : hiByte v &&& 0xFF = hiByte v := BitVec.and_allOnes
  calc readPsw (writePsw s v)
    _ = (hiByte v &&& 0xFF) ++ (loByte v &&& 0xD5) := by rw [hpack, hkeep]
    _ = (hiByte v ++ loByte v) &&& (0xFF ++ 0xD5) := BitVec.and_append.symm
    _ = v &&& 0xFFD5 := congrArg (· &&& 0xFFD5) (wordOf_hiByte_loByte v)

/-- Settles O24: the two bytes of the word written, and the pack after it. -/
theorem pswUnpacksFlags : Obligations.PswUnpacksFlags := by
  intro s v
  have hflags : (writePsw s v).flags = Flags.mk (v.getLsbD 7) (v.getLsbD 6) (v.getLsbD 4)
      (v.getLsbD 2) (v.getLsbD 0) := by
    have hbit := getLsbD_loByte v
    rw [writePsw_flags, unpackFlags, hbit 7 (by decide), hbit 6 (by decide), hbit 4 (by decide),
      hbit 2 (by decide), hbit 0 (by decide)]
  exact ⟨hiByte_toNat v, hflags, rfl, readPsw_writePsw s v, unpackFlags_packFlags s.flags⟩

/-- Settles O25: the fields of the reset state, with the memory of the state before. -/
theorem resetGivesTheResetState : Obligations.ResetGivesTheResetState := by
  intro ca s
  refine ⟨resetCore s, hostAct_reset ca s, rfl, rfl, rfl, rfl, rfl, rfl, rfl, rfl, rfl, fun f => ?_, rfl,
    fun _ => rfl, rfl, fun hpower => ?_⟩
  · cases f <;> rfl
  · rw [resetCore, show s.mem = [] from hpower]
    rfl

/-! ## Data transfer -/

/-- Settles O37: the immediate's bytes go to the two registers of the pair, or as a word to SP. -/
theorem lxiLoadsThePair : Obligations.LxiLoadsThePair := by
  intro rp b2 b3 s
  refine ⟨decodesTo_of_f3 (f := .lxi rp) rfl fun ca => ?encoding, ?meaning⟩
  case encoding => cases rp <;> rfl
  case meaning =>
    refine congrArg Host.Outcome.next ?_
    cases rp with
    | bc => exact writePair_bc s b3 b2
    | de => exact writePair_de s b3 b2
    | hl => exact writePair_hl s b3 b2
    | sp => rfl

/-- Settles O38: the loads write A, the stores write A's byte at the address. -/
theorem accumulatorLoadsAndStores : Obligations.AccumulatorLoadsAndStores := by
  intro lo hi s
  refine ⟨fun _ _ => rfl, fun _ _ => rfl, fun _ _ => rfl, fun _ _ => rfl, fun _ _ => rfl,
    fun _ _ => rfl, rfl, rfl, rfl, fun i x hstore => ?_⟩
  have hexec : exec i s = .next (writeMem s x s.a) := by
    rcases hstore with ⟨rfl, rfl⟩ | ⟨rfl, rfl⟩ | ⟨rfl, rfl⟩ <;> rfl
  exact ⟨_, hexec, readMem_writeMem_self s x s.a, writeMem_sameMemBut s x s.a, rfl⟩

/-- Settles O39: LHLD is a pair write of two bytes read, SHLD a word store of HL. -/
theorem lhldShldMoveHL : Obligations.LhldShldMoveHL := by
  intro lo hi s
  refine ⟨fun _ _ => rfl, fun _ _ => rfl, congrArg Host.Outcome.next (writePair_hl s _ _),
    writeMem2 s (hi ++ lo) (hlWord s), rfl, ?_, ?_, writeMem2_sameMemBut s _ _, rfl⟩
  · rw [readMem_writeMem2_low, hlWord, loByte_wordOf]
  · rw [readMem_writeMem2_high, hlWord, hiByte_wordOf]

/-- Settles O40: the four registers change places. -/
theorem xchgSwapsDeAndHl : Obligations.XchgSwapsDeAndHl :=
  ⟨fun _ _ => rfl, fun _ => ⟨_, rfl, rfl, rfl, rfl, rfl⟩⟩

end Sys2Proof.Machine
end

section
/-! Control transfer (44_branch.md), the stack instructions and machine control
(45_stack_machine_control.md). -/

namespace Sys2Proof.Machine

/-! ## Jumps -/

/-- A conditional jump writes PC where its condition holds, and nothing else (R192). -/
theorem jumpIf_eq {s : State} {cond : Cond} {p : Prop} [Decidable p] (addr : Word)
    (h : condHolds s.flags cond = true ↔ p) :
    jumpIf cond addr s = { s with pc := if p then addr else s.pc } := by
  by_cases hp : p
  · rw [jumpIf, if_pos (h.2 hp), if_pos hp]
    rfl
  · rw [jumpIf, if_neg (mt h.1 hp), if_neg hp]

/-- Settles O54: the conditions of the eight conditional jumps, on the flag each one tests. -/
theorem jumpsSetPc : Obligations.JumpsSetPc := by
  refine ⟨fun lo hi => ?_, fun addr s => ?_⟩
  · and_intros <;> exact fun _ _ => rfl
  · have hset : ∀ {cond} {b : Bool}, condHolds s.flags cond = b →
        Host.Outcome.next (jumpIf cond addr s) =
          (.next { s with pc := if b = true then addr else s.pc } : Result) :=
      fun h => congrArg Host.Outcome.next (jumpIf_eq addr (by rw [h]))
    have hclear : ∀ {cond} {b : Bool}, condHolds s.flags cond = !b →
        Host.Outcome.next (jumpIf cond addr s) =
          (.next { s with pc := if b = false then addr else s.pc } : Result) :=
      fun h => congrArg Host.Outcome.next (jumpIf_eq addr (by rw [h, Bool.not_eq_true']))
    exact ⟨rfl, rfl, hclear rfl, hset rfl, hclear rfl, hset rfl, hclear rfl, hset rfl, hclear rfl,
      hset rfl, rfl⟩

/-! ## Calls and returns -/

/-- A call that is taken pushes PC and jumps; one that is not changes nothing (R200, R201). -/
theorem exec_calls {addr : Word} {s : State} {i : Instr} {taken : Bool}
    (h : (i, taken) ∈ [(.call addr, true), (.callAlias addr, true), (.cnz addr, !s.flags.z),
      (.cz addr, s.flags.z), (.cnc addr, !s.flags.cy), (.cc addr, s.flags.cy),
      (.cpo addr, !s.flags.p), (.cpe addr, s.flags.p), (.cp addr, !s.flags.s),
      (.cm addr, s.flags.s)]) :
    exec i s = .next (if taken then callTo s addr else s) := by
  simp only [List.mem_cons, Prod.mk.injEq, List.not_mem_nil, or_false] at h
  rcases h with ⟨rfl, rfl⟩ | ⟨rfl, rfl⟩ | ⟨rfl, rfl⟩ | ⟨rfl, rfl⟩ | ⟨rfl, rfl⟩ | ⟨rfl, rfl⟩ |
    ⟨rfl, rfl⟩ | ⟨rfl, rfl⟩ | ⟨rfl, rfl⟩ | ⟨rfl, rfl⟩ <;> rfl

/-- Settles O55: the push of a call that is taken. -/
theorem callsPushTheReturnAddress : Obligations.CallsPushTheReturnAddress := by
  refine ⟨fun lo hi => ?_, fun addr s i taken h => ⟨?_, ?_⟩⟩
  · and_intros <;> exact fun _ _ => rfl
  · rintro rfl
    refine ⟨callTo s addr, exec_calls h, rfl, ?_, ?_, callTo_sameMemBut s addr, callTo_eq s addr⟩
    · rw [readMem_callTo, readMem_push16_high, hiByte_toNat]
    · rw [readMem_callTo, readMem_push16_low, loByte_toNat]
  · rintro rfl
    exact exec_calls h

/-- A return that is taken pops PC; one that is not changes nothing (R209, R210). -/
theorem exec_returns {s : State} {i : Instr} {taken : Bool}
    (h : (i, taken) ∈ [(.ret, true), (.retAlias, true), (.rnz, !s.flags.z), (.rz, s.flags.z),
      (.rnc, !s.flags.cy), (.rc, s.flags.cy), (.rpo, !s.flags.p), (.rpe, s.flags.p),
      (.rp, !s.flags.s), (.rm, s.flags.s)]) :
    exec i s = .next (if taken then returnFrom s else s) := by
  simp only [List.mem_cons, Prod.mk.injEq, List.not_mem_nil, or_false] at h
  rcases h with ⟨rfl, rfl⟩ | ⟨rfl, rfl⟩ | ⟨rfl, rfl⟩ | ⟨rfl, rfl⟩ | ⟨rfl, rfl⟩ | ⟨rfl, rfl⟩ |
    ⟨rfl, rfl⟩ | ⟨rfl, rfl⟩ | ⟨rfl, rfl⟩ | ⟨rfl, rfl⟩ <;> rfl

/-- Settles O56: the pop of a return that is taken. -/
theorem returnsPopPc : Obligations.ReturnsPopPc := by
  refine ⟨?_, fun s i taken h => ⟨?_, ?_⟩⟩
  · and_intros <;> exact fun _ _ => rfl
  · rintro rfl
    exact (exec_returns h).trans (congrArg Host.Outcome.next (returnFrom_eq s))
  · rintro rfl
    exact exec_returns h

/-! ## The stack instructions -/

/-- Each PUSH pushes its high and its low byte as a word (R232, R233). -/
theorem exec_pushes {s : State} {i : Instr} {hi lo : Byte}
    (h : (i, hi, lo) ∈ [(.push .bc, s.b, s.c), (.push .de, s.d, s.e), (.push .hl, s.h, s.l),
      (.pushPsw, s.a, packFlags s.flags)]) :
    exec i s = .next (push16 s (wordOf hi lo)) := by
  simp only [List.mem_cons, Prod.mk.injEq, List.not_mem_nil, or_false] at h
  rcases h with ⟨rfl, rfl, rfl⟩ | ⟨rfl, rfl, rfl⟩ | ⟨rfl, rfl, rfl⟩ | ⟨rfl, rfl, rfl⟩ <;> rfl

/-- Settles O58: the two bytes of a push, and the pair or PSW write of a pop. -/
theorem pushAndPop : Obligations.PushAndPop := by
  refine ⟨?decoding, fun s => ⟨fun i hi lo h => ?push, ?popBc, ?popDe, ?popHl, ?popPsw⟩⟩
  case decoding => and_intros <;> exact fun _ _ => rfl
  case push =>
    refine ⟨_, exec_pushes h, ?_, ?_, push16_sameMemBut s _, rfl⟩
    · rw [readMem_push16_high, hiByte_wordOf]
    · rw [readMem_push16_low, loByte_wordOf]
  case popBc => exact congrArg Host.Outcome.next (writePair_bc (pop16 s).2 _ _)
  case popDe => exact congrArg Host.Outcome.next (writePair_de (pop16 s).2 _ _)
  case popHl => exact congrArg Host.Outcome.next (writePair_hl (pop16 s).2 _ _)
  case popPsw =>
    have hpsw : exec .popPsw s = .next (writePsw (pop16 s).2 (wordOf (readMem s (s.sp + 1))
      (readMem s s.sp))) := rfl
    rw [hpsw, writePsw, hiByte_wordOf, loByte_wordOf]
    rfl

/-- The state after HL and the word at SP change places (R236). -/
def exchanged (s : State) : State :=
  writePair (writeMem2 s s.sp (hlWord s)) .hl (readMem2 s s.sp)

theorem exec_xthl (s : State) : exec .xthl s = .next (exchanged s) := rfl

theorem exchanged_l (s : State) : (exchanged s).l = readMem s s.sp := loByte_wordOf _ _

theorem exchanged_h (s : State) : (exchanged s).h = readMem s (s.sp + 1) := hiByte_wordOf _ _

theorem hlWord_exchanged (s : State) : hlWord (exchanged s) = readMem2 s s.sp :=
  readPair_writePair_self (writeMem2 s s.sp (hlWord s)) .hl (readMem2 s s.sp)

theorem readMem_exchanged (s : State) (y : Word) :
    readMem (exchanged s) y = readMem (writeMem2 s s.sp (hlWord s)) y :=
  readMem_writePair _ .hl _ y

theorem exchanged_sameMemBut (s : State) : SameMemBut [s.sp, s.sp + 1] s (exchanged s) :=
  fun y hy => (readMem_exchanged s y).trans (writeMem2_sameMemBut s s.sp (hlWord s) y hy)

theorem readMem2_exchanged (s : State) : readMem2 (exchanged s) s.sp = hlWord s :=
  readMem2_writeMem2 s s.sp (hlWord s)

/-- An exchange writes H, L and memory, and nothing else. -/
theorem exchanged_eq (s : State) :
    exchanged s = { s with h := (exchanged s).h, l := (exchanged s).l, mem := (exchanged s).mem } := rfl

/-- Two exchanges give every register its old value. -/
theorem exchanged_exchanged (s : State) :
    exchanged (exchanged s) = { s with mem := (exchanged (exchanged s)).mem } := by
  have hh : (exchanged (exchanged s)).h = s.h :=
    (congrArg hiByte (readMem2_exchanged s)).trans (hiByte_wordOf s.h s.l)
  have hl : (exchanged (exchanged s)).l = s.l :=
    (congrArg loByte (readMem2_exchanged s)).trans (loByte_wordOf s.h s.l)
  calc exchanged (exchanged s)
    _ = { exchanged s with
          h := (exchanged (exchanged s)).h
          l := (exchanged (exchanged s)).l
          mem := (exchanged (exchanged s)).mem } := exchanged_eq (exchanged s)
    _ = { s with
          h := (exchanged (exchanged s)).h
          l := (exchanged (exchanged s)).l
          mem := (exchanged (exchanged s)).mem } := by rw [exchanged_eq s]
    _ = { s with mem := (exchanged (exchanged s)).mem } := by rw [hh, hl]

/-- Writing a word back where it was read, over another one, restores every byte. -/
theorem readMem_writeMem2_restore (s : State) (x v y : Word) :
    readMem (writeMem2 (writeMem2 s x v) x (readMem2 s x)) y = readMem s y := by
  rw [readMem_writeMem2, readMem2, hiByte_wordOf, loByte_wordOf]
  split
  · rename_i h; rw [h]
  · split
    · rename_i h; rw [h]
    · rename_i hhigh hlow
      rw [readMem_writeMem2, if_neg hhigh, if_neg hlow]

/-- Two exchanges give every byte its old value. -/
theorem readMem_exchanged_exchanged (s : State) (y : Word) :
    readMem (exchanged (exchanged s)) y = readMem s y := by
  have hmem : readMem (exchanged (exchanged s)) y =
      readMem (writeMem2 (writeMem2 s s.sp (hlWord s)) s.sp (hlWord (exchanged s))) y := rfl
  rw [hmem, hlWord_exchanged, readMem_writeMem2_restore]

/-- Settles O59: one exchange byte by byte, and two of them. -/
theorem exchangeWithTheStackTop : Obligations.ExchangeWithTheStackTop := by
  refine ⟨fun _ _ => rfl, fun _ _ => rfl, fun s => ⟨⟨exchanged s, exec_xthl s,
    exchanged_l s, exchanged_h s, ?_, ?_, exchanged_sameMemBut s, exchanged_eq s,
    exchanged (exchanged s), exec_xthl (exchanged s), exchanged_exchanged s,
    readMem_exchanged_exchanged s⟩, rfl⟩⟩
  · rw [readMem_exchanged, readMem_writeMem2_low, hlWord, loByte_wordOf]
  · rw [readMem_exchanged, readMem_writeMem2_high, hlWord, hiByte_wordOf]

/-! ## NOP, HLT and the unimplemented bytes -/

/-- Every 3-bit number is a field. -/
theorem exists_bits3 (n : Fin 8) : ∃ xxx, bits3 xxx = BitVec.ofFin n := by
  refine ⟨dddField (byteOf (8 * n.val)), ?_⟩
  revert n
  decide

/-- `11 nnn 111` is the unimplemented RST row, whatever the field is (R72). -/
theorem unimplRst_decodesTo (nnn : Field3) :
    DecodesTo [byteOf (0xC7 + 8 * (bits3 nnn).toNat)] (.unimplRst nnn) := by
  have hbyte : byteOf (0xC7 + 8 * (bits3 nnn).toNat) = opcodeOf .f11 nnn .f111 :=
    byteOf_eq_opcodeOf .f11 nnn .f111 (by simp [bits2, bits3]; omega)
  rw [hbyte]
  exact decodesTo_of_encodeWith rfl fun _ => rfl

/-- `00 xxx 000` with a field other than 000 is a second byte of NOP (R71). -/
theorem nopAlias_decodesTo {xxx : Field3} (h : xxx ≠ .f000) :
    DecodesTo [byteOf (8 * (bits3 xxx).toNat)] (.nopAlias xxx) := by
  have hbyte : byteOf (8 * (bits3 xxx).toNat) = opcodeOf .f00 xxx .f000 :=
    byteOf_eq_opcodeOf .f00 xxx .f000 (by simp [bits2, bits3])
  rw [hbyte]
  exact decodesTo_of_encodeWith (by simp [Instr.wf, h]) fun _ => rfl

/-- Settles O60: the fields of the NOP and RST bytes, and meanings that leave the state alone. -/
theorem nopHltAndUnimplemented : Obligations.NopHltAndUnimplemented := by
  refine ⟨fun n => ?fields, fun _ _ => rfl, fun _ _ => rfl, fun _ _ => rfl, fun _ _ => rfl,
    fun _ _ => rfl, fun _ _ => rfl, fun s xxx => ?meanings⟩
  case fields =>
    obtain ⟨xxx, hxxx⟩ := exists_bits3 n
    have hn : (bits3 xxx).toNat = n.val := by rw [hxxx]; rfl
    refine ⟨xxx, hxxx, ?_, fun hne => ?_⟩ <;> rw [← hn]
    · exact unimplRst_decodesTo xxx
    · refine nopAlias_decodesTo fun hzero => hne (Fin.ext ?_)
      rw [← hn, hzero]
      rfl
  case meanings => and_intros <;> rfl

end Sys2Proof.Machine
end

section
/-! The host's accesses between steps (10_state.md section 8, 20_memory.md section 8). -/

namespace Sys2Proof.Machine

/-- A flag reads what was written to it. -/
theorem flagOf_withFlag_self (f : Flags) (n : FlagName) (v : Bool) : flagOf (withFlag f n v) n = v := by
  cases n <;> rfl

/-- A flag write changes no other flag. -/
theorem flagOf_withFlag_other (f : Flags) {n k : FlagName} (v : Bool) (h : k ≠ n) :
    flagOf (withFlag f n v) k = flagOf f k := by
  cases n <;> cases k <;> first | rfl | exact absurd rfl h

/-- Complementing CY twice gives it back. -/
theorem withFlag_cy_not_not (f : Flags) :
    withFlag (withFlag f .cy (!f.cy)) .cy (!(withFlag f .cy (!f.cy)).cy) = f := by
  simp [withFlag]

/-- The bytes of a program stand from address 0 on, and no other byte changes. -/
theorem writeBytes_zero_effect (s : State) (bytes : List Byte) (hlen : bytes.length ≤ 65536) :
    (∀ k v, bytes[k]? = some v → readMem (writeBytes s 0 bytes) (BitVec.ofNat 16 k) = v) ∧
    ∀ x : Word, bytes.length ≤ x.toNat → readMem (writeBytes s 0 bytes) x = readMem s x := by
  have hzero : ∀ x : Word, 0 + x = x := BitVec.zero_add
  refine ⟨fun k v hk => ?inside, fun x hx => ?outside⟩
  case inside =>
    have h := readMem_writeBytes_inside s 0 bytes hlen k v hk
    rwa [hzero] at h
  case outside =>
    refine readMem_writeBytes_outside s 0 x bytes fun k hk => ?_
    rw [hzero]
    rintro rfl
    rw [BitVec.toNat_ofNat, Nat.mod_eq_of_lt (by omega)] at hx
    omega

/-- A byte stored through M is the byte at H:L. -/
theorem store_m_effect (ca : CallAlias) (s : State) (v : Byte) :
    ∃ t, hostAct ca (.store .m v) s = .next t ∧ readReg t .m = v ∧ readMem t (s.h ++ s.l) = v ∧
      SameMemBut [s.h ++ s.l] s t ∧ t = { s with mem := t.mem } :=
  ⟨writeMem s (hlWord s) v, rfl, readMem_writeMem_self s (hlWord s) v,
    readMem_writeMem_self s (hlWord s) v, writeMem_sameMemBut s (hlWord s) v, rfl⟩

/-- Settles O28: one clause per host access. -/
theorem hostAccessesReadBackWhatTheyStore : Obligations.HostAccessesReadBackWhatTheyStore := by
  intro ca s
  refine ⟨fun r v hr => ?store, store_m_effect ca s, fun hi lo => ?storeX, ⟨rfl, rfl, rfl, rfl⟩,
    fun v => ?storePsw, fun f v => ?setFlag, ?toggleCarry, fun _ => rfl, fun _ => rfl, fun _ => rfl,
    fun v => ?push, ⟨rfl, rfl⟩, fun x n => ?storeMem, fun bytes hlen => ?loadProgram⟩
  case store =>
    exact ⟨writeReg s r v, rfl, readReg_writeReg_self s v hr, writeReg_regsBut s r v, writeReg_pc s r v,
      writeReg_sp s r v, writeReg_flags s r v, writeReg_halted s r v, writeReg_mem s v hr⟩
  case storeX =>
    exact ⟨congrArg Host.Outcome.next (writePair_bc s hi lo),
      congrArg Host.Outcome.next (writePair_de s hi lo),
      congrArg Host.Outcome.next (writePair_hl s hi lo)⟩
  case storePsw => exact ⟨writePsw s v, rfl, readPsw_writePsw s v, rfl⟩
  case setFlag =>
    exact ⟨_, rfl, flagOf_withFlag_self s.flags f v,
      fun k hk => flagOf_withFlag_other s.flags v (by simpa using hk), rfl⟩
  case toggleCarry =>
    refine ⟨_, rfl, rfl, rfl, rfl, congrArg Host.Outcome.next ?_⟩
    rw [withFlag_cy_not_not]
  case push =>
    exact ⟨push16 s v, _, rfl, stackTop_push16 s v, push16_sameMemBut s v, rfl, rfl,
      congrArg Prod.snd (pop16_push16 s v)⟩
  case storeMem =>
    refine ⟨_, hostAct_storeMem ca x n s, ?_, writeMem_sameMemBut s x _, rfl⟩
    rw [readMem_writeMem_self, BitVec.toNat_ofNat]
  case loadProgram =>
    exact ⟨writeBytes s 0 bytes, rfl, writeBytes_eq s 0 bytes, writeBytes_zero_effect s bytes hlen⟩

end Sys2Proof.Machine
end

section
/-! Arithmetic (42_arithmetic.md), logic, compare and rotates (43_logical_rotate.md). -/

namespace Sys2Proof.Machine

/-! ## Addition and subtraction -/

/-- Settles O42: ADC is band 1 of quadrant 10; each meaning is an `Add8` with its carry in. -/
theorem addWithCarryAndImmediate : Obligations.AddWithCarryAndImmediate := fun r d8 s =>
  ⟨quadrant10_decodesTo .f001 r rfl (fun _ => rfl) rfl, fun _ _ => rfl, fun _ _ => rfl,
    ⟨_, rfl, toAcc_add8_effect s (readReg s r) s.flags.cy⟩, ⟨_, rfl, toAcc_add8_effect s d8 false⟩,
    ⟨_, rfl, toAcc_add8_effect s d8 s.flags.cy⟩⟩

/-- A `Sub8` sent to the accumulator: A is the difference, the five flags follow it, all else is kept
(R133). -/
theorem toAcc_sub8_effect (s : State) (b : Byte) (bin : Bool) :
    IsDiff s.a b bin (toAcc s (sub8 s.a b bin)).a (toAcc s (sub8 s.a b bin)).flags ∧
    IsSZP (toAcc s (sub8 s.a b bin)).a (toAcc s (sub8 s.a b bin)).flags ∧
    toAcc s (sub8 s.a b bin) =
      { s with a := (toAcc s (sub8 s.a b bin)).a, flags := (toAcc s (sub8 s.a b bin)).flags } :=
  ⟨sub8_diff s.a b bin, aluFlags_szp (sub8 s.a b bin), rfl⟩

/-- Settles O43: SUB is band 2 of quadrant 10, and its meaning a `Sub8` with no borrow in. -/
theorem subRegister : Obligations.SubRegister := fun r s =>
  ⟨quadrant10_decodesTo .f010 r rfl (fun _ => rfl) rfl, _, rfl,
    toAcc_sub8_effect s (readReg s r) false⟩

/-- Settles O44: SBB is band 3 of quadrant 10; each meaning is a `Sub8` with its borrow in. -/
theorem subWithBorrowAndImmediate : Obligations.SubWithBorrowAndImmediate := fun r d8 s =>
  ⟨quadrant10_decodesTo .f011 r rfl (fun _ => rfl) rfl, fun _ _ => rfl, fun _ _ => rfl,
    ⟨_, rfl, toAcc_sub8_effect s (readReg s r) s.flags.cy⟩, ⟨_, rfl, toAcc_sub8_effect s d8 false⟩,
    ⟨_, rfl, toAcc_sub8_effect s d8 s.flags.cy⟩⟩

/-- After a subtraction Z says equal and CY says less, as unsigned numbers. -/
theorem sub8_compares (a b : Byte) :
    ((sub8 a b false).flags.z = true ↔ a = b) ∧
    ((sub8 a b false).flags.cy = true ↔ a.toNat < b.toNat) := by
  obtain ⟨hres, hcy, -⟩ := sub8_diff a b false
  obtain ⟨hz, -⟩ := aluFlags_szp (sub8 a b false)
  have ha := a.isLt
  have hb := b.isLt
  rw [hz, hcy, hres, ← BitVec.toNat_inj, Bool.toNat_false]
  omega

/-- Settles O45: the flags of a `Sub8` whose result goes nowhere. -/
theorem compareWritesFlagsOnly : Obligations.CompareWritesFlagsOnly := by
  intro r d8 s
  refine ⟨quadrant10_decodesTo .f111 r rfl (fun _ => rfl) rfl, fun _ _ => rfl, fun i v h => ?_⟩
  have hexec : exec i s = .next (toFlags s (sub8 s.a v false)) := by
    rcases h with ⟨rfl, rfl⟩ | ⟨rfl, rfl⟩ <;> rfl
  exact ⟨_, hexec, rfl, ⟨(sub8 s.a v false).res, sub8_diff s.a v false, aluFlags_szp _⟩,
    sub8_compares s.a v⟩

/-! ## Increment and decrement -/

/-- Plus 1: the carry of the low nibble comes from 0xF (R143). -/
theorem add8_one (a : Byte) : (add8 a 0x01 false).res.toNat = (a.toNat + 1) % 256 ∧
    ((add8 a 0x01 false).ac = true ↔ a.toNat % 16 = 15) := by
  obtain ⟨hres, -, hac⟩ := add8_sum a 0x01 false
  rw [aluFlags_ac] at hac
  rw [hres, hac]
  refine ⟨rfl, ?_⟩
  show 15 < a.toNat % 16 + 1 + 0 ↔ _
  omega

/-- Minus 1: the borrow of the low nibble comes from 0x0 (R144, D23). -/
theorem sub8_one (a : Byte) : (sub8 a 0x01 false).res.toNat = (a.toNat + 255) % 256 ∧
    ((sub8 a 0x01 false).ac = true ↔ a.toNat % 16 = 0) := by
  obtain ⟨hres, -, hac⟩ := sub8_diff a 0x01 false
  rw [aluFlags_ac] at hac
  rw [hres, hac]
  show (a.toNat + 512 - 1 - 0) % 256 = _ ∧ (a.toNat % 16 < 1 + 0 ↔ _)
  omega

/-- What INR and DCR do with their ALU result: one register written as by MVI, and all flags but CY. -/
theorem toRegKeepCarry_effect (s : State) (r : Reg) (o : AluOut) :
    IsSZP o.res (toRegKeepCarry s r o).flags ∧ (toRegKeepCarry s r o).flags.ac = o.ac ∧
    (toRegKeepCarry s r o).flags.cy = s.flags.cy ∧
    (r ≠ .m → readReg (toRegKeepCarry s r o) r = o.res ∧ SameRegsBut [r] s (toRegKeepCarry s r o) ∧
      SameMem s (toRegKeepCarry s r o)) ∧
    (r = .m → readMem (toRegKeepCarry s r o) (hlWord s) = o.res ∧
      SameMemBut [hlWord s] s (toRegKeepCarry s r o) ∧ SameRegsBut [] s (toRegKeepCarry s r o)) := by
  have hregs : ∀ q, readReg (toRegKeepCarry s r o) q = readReg (writeReg s r o.res) q := fun q => by
    cases q <;> rfl
  obtain ⟨hphysical, hthroughM, -⟩ := writeReg_effect s r o.res
  refine ⟨szp_congr rfl rfl rfl (aluFlags_szp o), rfl, rfl, fun hr => ?_, fun hr => ?_⟩
  · obtain ⟨hread, hframe, hmem⟩ := hphysical hr
    exact ⟨(hregs r).trans hread, fun q hm hq => (hregs q).trans (hframe q hm hq), hmem⟩
  · obtain ⟨hread, hmem, hframe⟩ := hthroughM hr
    exact ⟨hread, hmem, fun q hm hq => (hregs q).trans (hframe q hm hq)⟩

/-- Settles O46: INR is plus 1, DCR minus 1, and both write back as `toRegKeepCarry` does. -/
theorem incrementAndDecrement : Obligations.IncrementAndDecrement := by
  intro r s
  refine ⟨by cases r <;> exact fun _ _ => rfl, by cases r <;> exact fun _ _ => rfl,
    fun i delta nibble h => ?_⟩
  obtain ⟨o, hexec, hres, hac⟩ : ∃ o, exec i s = .next (toRegKeepCarry s r o) ∧
      o.res.toNat = ((readReg s r).toNat + delta) % 256 ∧
      (o.ac = true ↔ (readReg s r).toNat % 16 = nibble) := by
    rcases h with ⟨rfl, rfl, rfl⟩ | ⟨rfl, rfl, rfl⟩
    · exact ⟨_, rfl, add8_one _⟩
    · exact ⟨_, rfl, sub8_one _⟩
  obtain ⟨hszp, hkeepsAc, hcy, hphysical, hthroughM⟩ := toRegKeepCarry_effect s r o
  exact ⟨_, o.res, hexec, hres, hszp, by rw [hkeepsAc, hac], hcy, hphysical, hthroughM,
    toRegKeepCarry_pc s r o, toRegKeepCarry_sp s r o, toRegKeepCarry_halted s r o⟩

/-! ## Pairs -/

/-- Settles O47: INX and DCX write the pair's number plus or minus 1 back to it. -/
theorem pairIncrementAndDecrement : Obligations.PairIncrementAndDecrement := by
  intro rp s
  refine ⟨by cases rp <;> exact fun _ _ => rfl, by cases rp <;> exact fun _ _ => rfl,
    fun i delta h => ?_⟩
  obtain ⟨v, hexec, hv⟩ : ∃ v, exec i s = .next (writePair s rp v) ∧
      v.toNat = ((readPair s rp).toNat + delta) % 65536 := by
    rcases h with ⟨rfl, rfl⟩ | ⟨rfl, rfl⟩
    · exact ⟨_, rfl, by bv_omega⟩
    · exact ⟨_, rfl, by bv_omega⟩
  exact ⟨_, hexec, by rw [readPair_writePair_self, hv], writePair_regsBut s rp v, writePair_sp s v,
    readMem_writePair s rp v, writePair_pc s rp v, writePair_flags s rp v, writePair_halted s rp v⟩

/-- Settles O48: DAD writes the sum back to HL, and whether it is above 65535 to CY. -/
theorem doubleAdd : Obligations.DoubleAdd := by
  intro rp s
  refine ⟨by cases rp <;> exact fun _ _ => rfl, _, rfl, ?_, decide_eq_true_iff, rfl⟩
  have hhl := readPair_writePair_self s .hl (BitVec.ofNat 16 ((hlWord s).toNat + (readPair s rp).toNat))
  exact (congrArg BitVec.toNat hhl).trans (BitVec.toNat_ofNat _ _)

/-! ## Decimal adjust -/

/-- DAA corrects the low digit: by AC or by its value (R148). -/
def adjustsLow (a : Byte) (ac : Bool) : Bool := ac || decide (a.toNat % 16 > 9)

/-- DAA corrects the high digit: by CY, by its value, or when the low correction carries into a 9
(R148). -/
def adjustsHigh (a : Byte) (cy : Bool) : Bool :=
  cy || decide (a.toNat / 16 > 9) || (decide (a.toNat / 16 = 9) && decide (a.toNat % 16 > 9))

/-- The byte DAA adds (R148). -/
def correction (low high : Bool) : Byte := (if low then 0x06 else 0x00) + (if high then 0x60 else 0x00)

theorem correction_toNat (low high : Bool) :
    (correction low high).toNat = 6 * low.toNat + 96 * high.toNat := by
  cases low <;> cases high <;> rfl

/-- DAA is one addition of its correction, with CY never cleared (R148). -/
theorem daa8_eq (a : Byte) (cy ac : Bool) :
    daa8 a cy ac =
      { add8 a (correction (adjustsLow a ac) (adjustsHigh a cy)) false with
        cy := cy || adjustsHigh a cy } := rfl

/-- Settles O49: the addition of the correction, in numbers. -/
theorem decimalAdjust : Obligations.DecimalAdjust := by
  refine ⟨fun _ _ => rfl, fun s => ?_⟩
  have hexec : exec .daa s = _ :=
    congrArg (Host.Outcome.next ∘ toAcc s) (daa8_eq s.a s.flags.cy s.flags.ac)
  obtain ⟨hres, -, hac⟩ := add8_sum s.a
    (correction (adjustsLow s.a s.flags.ac) (adjustsHigh s.a s.flags.cy)) false
  rw [correction_toNat] at hres hac
  refine ⟨_, adjustsLow s.a s.flags.ac, adjustsHigh s.a s.flags.cy, hexec, by simp [adjustsLow],
    by simp [adjustsHigh, or_assoc], hres.trans (by rw [Bool.toNat_false]; omega), hac.trans ?_,
    Bool.or_eq_true_iff, aluFlags_szp _, rfl⟩
  have hlow := Bool.toNat_le (adjustsLow s.a s.flags.ac)
  rw [Bool.toNat_false]
  omega

/-- After an addition of packed BCD bytes whose digits add up to `h` and `l`, DAA corrects exactly the digits
that are above 9, the low one's carry counted to the high one. -/
theorem bcd_corrections {h l x : Nat} {low high cy ac : Bool} (hh : h ≤ 18) (hl : l ≤ 19)
    (hx : x = (16 * h + l) % 256) (hcy : cy = true ↔ 255 < 16 * h + l) (hac : ac = true ↔ 15 < l)
    (hlow : low = true ↔ ac = true ∨ 9 < x % 16)
    (hhigh : high = true ↔ cy = true ∨ 9 < x / 16 ∨ x / 16 = 9 ∧ 9 < x % 16) :
    (low = true ↔ 9 < l) ∧ (high = true ↔ 9 < h + low.toNat) := by
  have hlow' : low = true ↔ 9 < l := by
    rw [hlow, hac]
    omega
  refine ⟨hlow', ?_⟩
  rw [hhigh, hcy]
  cases hl' : low with
  | true =>
    have hcarry := hlow'.1 hl'
    rw [Bool.toNat_true]
    omega
  | false =>
    have hcarry := mt hlow'.2 (by simp [hl'])
    rw [Bool.toNat_false]
    omega

/-- The corrected digits are below 10, and with the hundreds they make up the sum. -/
theorem bcd_adjusted {h l u : Nat} {low high : Bool} (hh : h ≤ 18) (hl : l ≤ 19)
    (hlow : low = true ↔ 9 < l) (hhigh : high = true ↔ 9 < h + low.toNat)
    (hu : u = ((16 * h + l) % 256 + 6 * low.toNat + 96 * high.toNat) % 256) :
    u % 16 ≤ 9 ∧ u / 16 ≤ 9 ∧ u / 16 * 10 + u % 16 + 100 * high.toNat = 10 * h + l := by
  cases low <;> cases high <;>
    simp only [Bool.toNat_true, Bool.toNat_false, true_iff, Bool.false_eq_true, false_iff] at * <;>
    omega

/-- Settles O50: the four additions are one `Add8`, whose digits DAA corrects. -/
theorem decimalAdjustGivesTheBcdSum : Obligations.DecimalAdjustGivesTheBcdSum := by
  intro s i y cin h hbcdA hbcdY
  have hexec : exec i s = .next (toAcc s (add8 s.a y cin)) := by
    rcases h with ⟨r, rfl, rfl, rfl⟩ | ⟨r, rfl, rfl, rfl⟩ | ⟨rfl, rfl⟩ | ⟨rfl, rfl⟩ <;> rfl
  obtain ⟨⟨hsum, hcarry, haux⟩, -, -⟩ := toAcc_add8_effect s y cin
  generalize toAcc s (add8 s.a y cin) = t at hexec hsum hcarry haux
  obtain ⟨u, low, high, hdaa, hlow, hhigh, hres, -, hcy, -, -⟩ := decimalAdjust.2 t
  obtain ⟨haLow, haHigh⟩ := hbcdA
  obtain ⟨hyLow, hyHigh⟩ := hbcdY
  have hcin := Bool.toNat_le cin
  obtain ⟨hlow', hhigh'⟩ := bcd_corrections (h := s.a.toNat / 16 + y.toNat / 16)
    (l := s.a.toNat % 16 + y.toNat % 16 + cin.toNat) (by omega) (by omega) (by omega)
    (hcarry.trans (by omega)) haux hlow hhigh
  obtain ⟨huLow, huHigh, hvalue⟩ :=
    bcd_adjusted (u := u.a.toNat) (by omega) (by omega) hlow' hhigh' (by omega)
  have hhundreds : u.flags.cy = high := by
    rw [Bool.eq_iff_iff, hcy, or_iff_right_of_imp fun ht => hhigh.2 (.inl ht)]
  refine ⟨t, u, hexec, hdaa, ⟨huLow, huHigh⟩, ?_⟩
  rw [hhundreds, bcdValue, bcdValue, bcdValue, hvalue]
  omega

/-! ## Logic -/

/-- Settles O51: bands 4 to 6 of quadrant 10 and three immediates, each one bitwise operation. -/
theorem logicOperations : Obligations.LogicOperations := by
  intro r d8 s
  refine ⟨quadrant10_decodesTo .f100 r rfl (fun _ => rfl) rfl,
    quadrant10_decodesTo .f101 r rfl (fun _ => rfl) rfl,
    quadrant10_decodesTo .f110 r rfl (fun _ => rfl) rfl, fun _ _ => rfl, fun _ _ => rfl,
    fun _ _ => rfl, fun i v f h => ?_⟩
  obtain ⟨w, hexec, hbits⟩ : ∃ w, exec i s = .next (toAcc s (logic8 w)) ∧
      ∀ k, k < 8 → w.getLsbD k = f (s.a.getLsbD k) (v.getLsbD k) := by
    rcases h with ⟨rfl, rfl, rfl⟩ | ⟨rfl, rfl, rfl⟩ | ⟨rfl, rfl, rfl⟩ | ⟨rfl, rfl, rfl⟩ |
      ⟨rfl, rfl, rfl⟩ | ⟨rfl, rfl, rfl⟩
    · exact ⟨_, rfl, fun _ _ => BitVec.getLsbD_and⟩
    · exact ⟨_, rfl, fun _ _ => BitVec.getLsbD_and⟩
    · exact ⟨_, rfl, fun _ _ => BitVec.getLsbD_xor⟩
    · exact ⟨_, rfl, fun _ _ => BitVec.getLsbD_xor⟩
    · exact ⟨_, rfl, fun _ _ => BitVec.getLsbD_or⟩
    · exact ⟨_, rfl, fun _ _ => BitVec.getLsbD_or⟩
  exact ⟨_, hexec, hbits, aluFlags_szp (logic8 w), rfl, rfl, rfl⟩

/-! ## Rotates, CMA, CMC, STC -/

/-- Appended bit vectors are digits of a number. -/
theorem toNat_append_eq {m n : Nat} (x : BitVec m) (y : BitVec n) :
    (x ++ y).toNat = x.toNat * 2 ^ n + y.toNat := by
  rw [BitVec.toNat_append, ← Nat.shiftLeft_add_eq_or_of_lt y.isLt, Nat.shiftLeft_eq]

/-- Seven bits moved up and a new bit 0 (R169, R171). -/
theorem toNat_shiftedUp (a : Byte) (b : Bool) :
    (a.extractLsb' 0 7 ++ BitVec.ofBool b).toNat = a.toNat * 2 % 256 + b.toNat := by
  rw [toNat_append_eq, BitVec.extractLsb'_toNat, BitVec.toNat_ofBool, Nat.shiftRight_zero]
  omega

/-- Seven bits moved down and a new bit 7 (R170, R172). -/
theorem toNat_shiftedDown (a : Byte) (b : Bool) :
    (BitVec.ofBool b ++ a.extractLsb' 1 7).toNat = a.toNat / 2 + 128 * b.toNat := by
  have ha := a.isLt
  rw [toNat_append_eq, BitVec.extractLsb'_toNat, BitVec.toNat_ofBool, Nat.shiftRight_eq_div_pow]
  omega

theorem toNat_getLsbD_seven (a : Byte) : (a.getLsbD 7).toNat = a.toNat / 128 := by
  have ha := a.isLt
  rw [BitVec.getLsbD, Nat.toNat_testBit]
  omega

theorem toNat_getLsbD_zero (a : Byte) : (a.getLsbD 0).toNat = a.toNat % 2 := by
  rw [BitVec.getLsbD, Nat.toNat_testBit, Nat.pow_zero, Nat.div_one]

/-- Settles O52: the moved accumulator and the bit that leaves, in numbers; CMA and CMC undo themselves. -/
theorem rotatesAndCarry : Obligations.RotatesAndCarry := by
  refine ⟨fun _ _ => rfl, fun _ _ => rfl, fun _ _ => rfl, fun _ _ => rfl, fun _ _ => rfl,
    fun _ _ => rfl, fun _ _ => rfl, fun s => ⟨?rlc, ?rrc, ?ral, ?rar, ?cma, ?cmc, rfl⟩⟩
  case rlc =>
    refine ⟨_, rfl, ?_, getLsbD_seven s.a, rfl⟩
    rw [← toNat_getLsbD_seven]
    exact toNat_shiftedUp s.a _
  case rrc =>
    refine ⟨_, rfl, ?_, getLsbD_zero s.a, rfl⟩
    rw [← toNat_getLsbD_zero]
    exact toNat_shiftedDown s.a _
  case ral => exact ⟨_, rfl, toNat_shiftedUp s.a s.flags.cy, getLsbD_seven s.a, rfl⟩
  case rar => exact ⟨_, rfl, toNat_shiftedDown s.a s.flags.cy, getLsbD_zero s.a, rfl⟩
  case cma =>
    refine ⟨_, rfl, BitVec.toNat_not, rfl, congrArg Host.Outcome.next ?_⟩
    rw [BitVec.not_not]
  case cmc =>
    refine ⟨_, rfl, rfl, rfl, congrArg Host.Outcome.next ?_⟩
    rw [Bool.not_not]

end Sys2Proof.Machine
end
